-- ==== Sys2Proof/Word.lean ====
section
/-! DEFINITION. The word types of the block (rules R7, R9): a level, a byte, a slave address, a command word. -/

namespace Sys2Proof

/-- A level of a line or a one-bit flag: true is 1 (high), false is 0 (low) (rule R9, D2). -/
abbrev Level := Bool

/-- Every transferred value: `DATA_W` = 8 bits (rule R7). -/
abbrev Byte := BitVec 8

/-- A slave address: `ADDR_W` = 7 bits (rules R7, R54). -/
abbrev Addr := BitVec 7

/-- A command word: `CW_W` = 32 bits (rules R7, R80). -/
abbrev Word := BitVec 32

end Sys2Proof
end

