-- ==== Sys2Proof/Config.lean ====
section
/-! DEFINITION. What an implementation fixes and what the environment leaves free: both without a body, so that
nothing can be proved of their values. -/

namespace Sys2Proof

/-- The legal values of `DELAY_UNITS`, 1..65535, each written as the value less one, so that the illegal
value 0 cannot be written at all (rule R7, D11, U2). -/
abbrev DelayUnits := Fin 65535

/-- `DELAY_UNITS` of this implementation, open in the spec (rule R7, D11); log entry 4. -/
opaque Config.delay : DelayUnits

/-- The level the environment puts on the Data line at the sample with this number, where no answer stands
ready in the state: a free value (rule R52, D17, U13); log entry 2. -/
opaque Config.dataLevel : Nat → Level

end Sys2Proof
end

