-- ==== Sys2Proof/Syntax.lean ====
section
/-! DEFINITION. The five commands (rules R82, R83), one constructor per row of spec/opcode_table.json. -/

namespace Sys2Proof

/-- A legal command word, field by field, in the order `ADDR`, `REGLEN`, `DATA` of rule R81.
A field the command ignores is kept (`ign…`), because acceptance latches it like any other (rules R87, R147;
log entry 11): it changes nothing the command does. -/
inductive Instr where
  /-- `WRITE_BYTE`: WriteByte(A, D), rule R141. -/
  | writeByte (a : Addr) (ignReg : Byte) (d : Byte)
  /-- `WRITE_MULTI`: WriteMultiBytes(A, payload bytes 0..n-1), rule R142. -/
  | writeMulti (a : Addr) (n : Byte) (ignData : Byte)
  /-- `WRITE_REG`: WriteReg(A, R, D), rule R143. -/
  | writeReg (a : Addr) (r : Byte) (d : Byte)
  /-- `READ_BYTE`: ReadByte(A), rule R144. -/
  | readByte (a : Addr) (ignReg : Byte) (ignData : Byte)
  /-- `READ_REG`: ReadReg(A, R), rule R145. -/
  | readReg (a : Addr) (r : Byte) (ignData : Byte)
  deriving DecidableEq, Repr

end Sys2Proof
end

