-- ==== Sys2Proof/Machine/State.lean ====
section
/-! DEFINITION. The state: the block's eighteen registers (rule R43), and beside them, as plain data, what rule
R45 calls parameters and inputs of a step. -/

namespace Sys2Proof.Machine

/-- `PHASE`, the state of the Transaction Orchestrator (rule R24). The values 6 and 7 are never taken and are
left out of the type (rule R24, U8). -/
inductive Phase where
  /-- 0: no transaction in flight; ready for a command. -/
  | idle
  /-- 1: running the first Start. -/
  | start
  /-- 2: running SendAddress. -/
  | addr
  /-- 3: running SendByte of a register or data byte, or ReceiveByte. -/
  | data
  /-- 4: running the second Start of ReadReg. -/
  | rstart
  /-- 5: running Stop. -/
  | stop
  deriving DecidableEq, Repr

/-- The registers of the block, in the order of the table of rule R43. -/
structure Block where
  /-- `SCL`: the level driven on the Clock line (rule R21). -/
  scl : Level
  /-- `SDA`: the level driven on the Data line; 1 is also "released" (rule R22). -/
  sda : Level
  /-- `PHASE` (rule R24). -/
  phase : Phase
  /-- `K`: the index of the next micro-op of the running primitive (rule R25). -/
  k : BitVec 6
  /-- `OP` of the command latch (rule R26). -/
  op : BitVec 3
  /-- `A` of the command latch (rule R26). -/
  a : Addr
  /-- `RL` of the command latch (rule R26). -/
  rl : Byte
  /-- `DAT` of the command latch (rule R26). -/
  dat : Byte
  /-- `BYTE_I`: the index of the data byte now being sent (rule R27). -/
  byteI : Byte
  /-- `RS`: the second Start of ReadReg has been run (rule R28). -/
  rs : Bool
  /-- `SHREG`: the serializer/deserializer (rule R29). -/
  shreg : Byte
  /-- `ACKF`: the outcome of the SendByte that completed last (rule R30). -/
  ackf : Bool
  /-- `ERR`: the TransactionResult, 1 = Error (rule R31). -/
  err : Bool
  /-- `ILL`: the word presented last was refused (rule R32). -/
  ill : Bool
  /-- `RSPV`: response valid (rule R33). -/
  rspv : Bool
  /-- `RXDATA`: the value assembled by the ReceiveByte that completed last (rule R34). -/
  rxdata : Byte
  /-- `POLL_CNT`: the samples already taken in the current poll (rule R36). -/
  pollCnt : BitVec 18
  /-- `HB_CNT`: the clock cycles already spent in the current wait (rule R35). -/
  hbCnt : BitVec 16
  deriving DecidableEq, Repr

/-- The registers at reset (rule R43). -/
def Block.reset : Block where
  scl := true
  sda := true
  phase := .idle
  k := 0
  op := 0
  a := 0
  rl := 0
  dat := 0
  byteI := 0
  rs := false
  shreg := 0
  ackf := false
  err := false
  ill := false
  rspv := false
  rxdata := 0
  pollCnt := 0
  hbCnt := 0

/-- What the host does in one clock cycle: the input ports of rule R44 that are its own, and at most one write
of a byte into the payload memory it owns (rules R56, R68). -/
structure HostCycle where
  /-- `rst_n`, active low. -/
  rstN : Bool
  /-- `cmd_valid`. -/
  cmdValid : Bool
  /-- `cmd_word`. -/
  cmdWord : Word
  /-- A byte of the payload memory written by the host in this cycle: address and value. -/
  plWrite : Option (Byte × Byte)
  deriving DecidableEq, Repr

/-- A cycle in which the host does nothing. -/
def HostCycle.quiet : HostCycle where
  rstN := true
  cmdValid := false
  cmdWord := 0
  plWrite := none

/-- The payload memory (rule R56) as a list of addresses and bytes, in the canonical form `Memory.wf`. -/
abbrev Memory := List Host.Cell

/-- What is not state of the block (rule R45) and yet an input of its steps. No step of the block depends on it
but through the reads the rules give. -/
structure Env where
  /-- The levels of the Data line at the coming samples, the next one first (rule R52; log entry 2). -/
  dataIn : List Level
  /-- The samples taken so far: the number at which a free level is read (log entry 2). -/
  sampleNo : Nat
  /-- The coming clock cycles of the host, the next one first; after the last the host is quiet (log entry 3). -/
  host : List HostCycle
  /-- The payload memory, owned by the host (rule R56). -/
  payload : Memory
  deriving DecidableEq, Repr

/-- The machine: the block, its inputs, and the constant `DELAY_UNITS` less one, which no step writes
(rule R7; log entry 4). -/
structure State where
  block : Block
  env : Env
  delay : DelayUnits
  deriving DecidableEq, Repr

/-- Why the machine stops: only in register values no run reaches (U8). -/
inductive Fault where
  /-- `(PHASE, K)` names no micro-op: K > 7 in `START`, `RSTART` or `STOP`. Raised by `microStep`; safe:
  the spec gives no behaviour there (U8), and `Inv` rules it out. -/
  | noMicroOp
  /-- The running command has no transition here (`RSTART` under a command other than `READ_REG`, or `WRITE_REG`
  with `BYTE_I` above 1). Raised by `microStep`; safe: rule R149 has no such row (U8), and `Inv` rules it out. -/
  | noTransition
  deriving DecidableEq, Repr

/-- Why the machine gives no meaning. -/
inductive Refusal where
  /-- An instruction whose arm of `exec` has no meaning yet. Raised by `exec` only; safe. -/
  | notModelled (mnemonic : String)
  /-- A busy phase while the latch `OP` holds 0, 6 or 7. Raised by `step`; safe: the spec gives no
  behaviour there (U8), and `Inv` rules it out. -/
  | latchHoldsNoCommand
  deriving DecidableEq, Repr

/-- The machine right after reset: every register as rule R43 says; nothing presented, no answer of the Data
line fixed, nothing listed in the payload memory, `DELAY_UNITS` whatever the implementation took. -/
def State.reset : State where
  block := Block.reset
  env := { dataIn := [], sampleNo := 0, host := [], payload := [] }
  delay := Config.delay

end Sys2Proof.Machine
end

