-- ==== Sys2Proof/Machine/Flags.lean ====
section
/-! DEFINITION. Flags and counters: the acknowledgment poll, the half-bit counter, the result flags. -/

namespace Sys2Proof.Machine

/-- `DELAY_UNITS` as a number, 1..65535 (rule R7). -/
def delayUnits (d : DelayUnits) : Nat := d.val + 1

/-- `POLL_FACTOR` (rule R7); unaudited against the source's code (U1; log entry 14). -/
def pollFactor : Nat := 3

/-- `POLL_BOUND` = `POLL_FACTOR * DELAY_UNITS` (rules R7, R102). -/
def pollBound (du : Nat) : Nat := pollFactor * du

/-- How a micro-op leaves the running primitive (rule R148). -/
inductive Fate where
  /-- The position stays: a wait not over yet, or a poll that goes on. -/
  | hold
  /-- The micro-op is complete. -/
  | done
  /-- The poll gives up: the primitive completes (rule R130, row 61). -/
  | giveUp
  deriving DecidableEq, Repr

/-- `ACKF <- x`: the AcknowledgmentOutcome (rules R30, R171). -/
def Block.withAckf (x : Bool) (b : Block) : Block := { b with ackf := x }

/-- `POLL_CNT <- n` (rule R36). -/
def Block.withPollCnt (n : BitVec 18) (b : Block) : Block := { b with pollCnt := n }

/-- `HB_CNT <- n` (rule R35). -/
def Block.withHbCnt (n : BitVec 16) (b : Block) : Block := { b with hbCnt := n }

/-- One sample of the acknowledgment poll (rules R122, R130 row 61): low acknowledges; the last allowed high
gives up; any other high is counted. -/
def Block.pollSample (du : Nat) (l : Level) (b : Block) : Block × Fate :=
  if l = false then (b.withAckf true, .done)
  else if b.pollCnt.toNat + 1 = pollBound du then (b.withAckf false, .giveUp)
  else (b.withPollCnt (b.pollCnt + 1), .hold)

/-- One clock cycle of `wait_half_bit` (rule R101). -/
def Block.waitCycle (du : Nat) (b : Block) : Block × Fate :=
  if b.hbCnt.toNat + 1 = du then (b.withHbCnt 0, .done)
  else (b.withHbCnt (b.hbCnt + 1), .hold)

/-- `ERR <- 1`: the TransactionResult becomes Error (rules R31, R173). -/
def Block.setError (b : Block) : Block := { b with err := true }

/-- The flags of a refused word: `ILL <- 1`, `ERR <- 0`, `RSPV <- 1` (rule R177). -/
def Block.flagRefused (b : Block) : Block :=
  { b with ill := true, err := false, rspv := true }

/-- The flags of an accepted word: `ERR <- 0`, `ILL <- 0`, `RSPV <- 0` (rule R147). -/
def Block.flagAccepted (b : Block) : Block :=
  { b with err := false, ill := false, rspv := false }

end Sys2Proof.Machine
end

