-- ==== Sys2Proof/Machine/Memory.lean ====
section
/-! DEFINITION. The payload memory (rule R56): 256 bytes, read only to the block, written by the host. -/

namespace Sys2Proof.Machine

/-- What an address that is not listed reads as (log entry 5). -/
def Memory.unlisted : Byte := 0

/-- The byte listed at an address. -/
def Memory.lookup : Memory → Nat → Byte
  | [], _ => Memory.unlisted
  | (x, v) :: m, n => if x = n then v else Memory.lookup m n

/-- `MemRead(i, 1)`: the byte at `pl_addr` = i, which port `pl_data` returns (rule R56). Every 8-bit address
exists (rule R60). -/
def Memory.read (m : Memory) (i : Byte) : Byte :=
  Memory.lookup m i.toNat

/-- Puts a byte at an address, keeping the canonical form. -/
def Memory.insert : Memory → Nat → Byte → Memory
  | [], n, v => if v = Memory.unlisted then [] else [(n, v)]
  | (x, w) :: m, n, v =>
    if n < x then (if v = Memory.unlisted then (x, w) :: m else (n, v) :: (x, w) :: m)
    else if n = x then (if v = Memory.unlisted then m else (n, v) :: m)
    else (x, w) :: Memory.insert m n v

/-- The host writes byte i of the payload memory. -/
def Memory.write (m : Memory) (i : Byte) (v : Byte) : Memory :=
  Memory.insert m i.toNat v

/-- The canonical form from an address on: addresses strictly rising, within the 256 that exist, and nothing
listed that an unlisted address reads as. -/
def Memory.wfFrom : Nat → Memory → Bool
  | _, [] => true
  | lo, (x, v) :: m =>
    decide (lo ≤ x) && decide (x < 256) && decide (v ≠ Memory.unlisted) && Memory.wfFrom (x + 1) m

/-- The canonical form of the payload memory. -/
def Memory.wf (m : Memory) : Bool :=
  Memory.wfFrom 0 m

end Sys2Proof.Machine
end

