-- ==== Sys2Proof/Decode.lean ====
section
/-! DEFINITION. Decoding a command word (rules R81 to R93), total on 32-bit words, and the encoder beside it. -/

namespace Sys2Proof

/-- Why a word is no command (rule R86). -/
inductive Illegal where
  /-- `Z1` (bit 15) or `Z0` (bits 7:3) is not zero. -/
  | reservedBits
  /-- `OP` is 0, 6 or 7. -/
  | noSuchOperation
  deriving DecidableEq, Repr

/-- What a word is: a command, or illegal with the reason named. -/
inductive Decoded where
  | command (i : Instr)
  | illegal (why : Illegal)
  deriving DecidableEq, Repr

/-- `OP` = w[2:0] (rules R81, R84). -/
def opField (w : Word) : BitVec 3 := w.extractLsb' 0 3

/-- `Z0` = w[7:3] (rule R81). -/
def z0Field (w : Word) : BitVec 5 := w.extractLsb' 3 5

/-- `ADDR` = w[14:8] (rules R81, R84). -/
def addrField (w : Word) : Addr := w.extractLsb' 8 7

/-- `Z1` = w[15] (rule R81). -/
def z1Field (w : Word) : BitVec 1 := w.extractLsb' 15 1

/-- `REGLEN` = w[23:16] (rules R81, R84). -/
def regLenField (w : Word) : Byte := w.extractLsb' 16 8

/-- `DATA` = w[31:24] (rules R81, R84). -/
def dataField (w : Word) : Byte := w.extractLsb' 24 8

/-- The command with this `OP` and these operand fields (rule R82): none for 0, 6 and 7. -/
def commandOf (op : BitVec 3) (a : Addr) (rl dat : Byte) : Option Instr :=
  if op = 1 then some (.writeByte a rl dat)
  else if op = 2 then some (.writeMulti a rl dat)
  else if op = 3 then some (.writeReg a rl dat)
  else if op = 4 then some (.readByte a rl dat)
  else if op = 5 then some (.readReg a rl dat)
  else none

/-- Decoding in full (rule R93). -/
def decode (w : Word) : Decoded :=
  if z1Field w ≠ 0 ∨ z0Field w ≠ 0 then .illegal .reservedBits
  else
    match commandOf (opField w) (addrField w) (regLenField w) (dataField w) with
    | some i => .command i
    | none => .illegal .noSuchOperation

/-- The value of `OP` that selects the command (rule R82). -/
def Instr.op : Instr → BitVec 3
  | .writeByte _ _ _ => 1
  | .writeMulti _ _ _ => 2
  | .writeReg _ _ _ => 3
  | .readByte _ _ _ => 4
  | .readReg _ _ _ => 5

/-- The `ADDR` field of the command's word (rule R81). -/
def Instr.addr : Instr → Addr
  | .writeByte a _ _ => a
  | .writeMulti a _ _ => a
  | .writeReg a _ _ => a
  | .readByte a _ _ => a
  | .readReg a _ _ => a

/-- The `REGLEN` field of the command's word (rule R81). -/
def Instr.regLen : Instr → Byte
  | .writeByte _ rl _ => rl
  | .writeMulti _ rl _ => rl
  | .writeReg _ rl _ => rl
  | .readByte _ rl _ => rl
  | .readReg _ rl _ => rl

/-- The `DATA` field of the command's word (rule R81). -/
def Instr.data : Instr → Byte
  | .writeByte _ _ d => d
  | .writeMulti _ _ d => d
  | .writeReg _ _ d => d
  | .readByte _ _ d => d
  | .readReg _ _ d => d

/-- The word of a command, by the pattern `dddddddd rrrrrrrr 0aaaaaaa 00000ooo` of rule R81. -/
def encode (i : Instr) : Word :=
  i.data ++ i.regLen ++ 0#1 ++ i.addr ++ 0#5 ++ i.op

/-- What the decoder reads from an instruction whose `nbits` bits are `w`, numbered as
spec/opcode_table.json numbers them; every command is one 32-bit word (rule R80), so bits above `nbits` are 0. -/
def decodeTableWord (nbits w : Nat) : Option Instr :=
  match decode (BitVec.ofNat 32 (w % 2 ^ nbits)) with
  | .command i => some i
  | .illegal _ => none

end Sys2Proof
end

