-- ==== Sys2Proof/Machine/Operands.lean ====
section
/-! DEFINITION. Operand forms: the address byte, one bit of a byte, the command the latch holds. -/

namespace Sys2Proof.Machine

/-- The address byte `{A[6:0], rw}`: rw = 0 for a write, 1 for a read (rules R58, R84, R129). -/
def addressByte (a : Addr) (rw : Bool) : Byte :=
  a ++ BitVec.ofBool rw

/-- `v[i]` (rule R9). -/
def bitOf (v : Byte) (i : Fin 8) : Level :=
  v.getLsbD i

/-- `v[i] <- l` on a byte (rule R126). -/
def withBit (v : Byte) (i : Fin 8) (l : Level) : Byte :=
  (v &&& ~~~((1 : Byte) <<< i.val)) ||| ((BitVec.ofBool l).zeroExtend 8 <<< i.val)

/-- The command the latch holds (rule R26): none while `OP` is no command. -/
def Block.command (b : Block) : Option Instr :=
  commandOf b.op b.a b.rl b.dat

/-- In `DATA` the block receives when `OP` = 4, or when `OP` = 5 and `RS` = 1; otherwise it sends (rule R146). -/
def Block.receives (b : Block) : Bool :=
  b.op == 4 || (b.op == 5 && b.rs)

end Sys2Proof.Machine
end

