-- ==== Sys2Proof/Machine/Ops.lean ====
section
/-! DEFINITION. The named operations over the registers: the capability operations on the lines, acceptance,
the entries of the phases, the abort and the response, the refusal, reset. -/

namespace Sys2Proof.Machine

/-- `setClock(l)`: `SCL <- l` (rules R10, R51). -/
def Block.setClock (l : Level) (b : Block) : Block := { b with scl := l }

/-- `setData(l)`: `SDA <- l` (rules R10, R51). -/
def Block.setData (l : Level) (b : Block) : Block := { b with sda := l }

/-- `SHREG <- v` (rule R29). -/
def Block.withShreg (v : Byte) (b : Block) : Block := { b with shreg := v }

/-- `K <- k` (rule R25). -/
def Block.withK (k : BitVec 6) (b : Block) : Block := { b with k := k }

/-- `readData()`: the level of port `sda_i` at this step, the environment's answer (rules R23, R52). -/
def Env.dataLevel (e : Env) : Level :=
  match e.dataIn with
  | l :: _ => l
  | [] => Config.dataLevel e.sampleNo

/-- The environment once a sample has been taken. -/
def Env.takeSample (e : Env) : Env :=
  { e with dataIn := e.dataIn.tail, sampleNo := e.sampleNo + 1 }

/-- Acceptance of a legal word (rule R147): the latch takes the word's fields, the flags and the sequencing
registers are cleared, the first Start begins. -/
def Block.accept (i : Instr) (b : Block) : Block :=
  { b.flagAccepted with
    op := i.op, a := i.addr, rl := i.regLen, dat := i.data
    byteI := 0, rs := false, k := 0, phase := .start }

/-- `raise IllegalCommand`, the refusal of an illegal word in `IDLE` (rules R147, R177). -/
def Block.refuse (b : Block) : Block := b.flagRefused

/-- A cycle in `IDLE` with no word presented: the response is over, `RSPV <- 0` (rules R33, R150). -/
def Block.idleCycle (b : Block) : Block := { b with rspv := false }

/-- Entering `ADDR`: `SHREG <- {A, rw}` (rules R129, R149). -/
def Block.enterAddr (rw : Bool) (b : Block) : Block :=
  { b with shreg := addressByte b.a rw, phase := .addr }

/-- Entering the second address phase: `RS <- 1`, `SHREG <- {A, 1}` (rules R28, R149). -/
def Block.enterSecondAddr (b : Block) : Block :=
  { b.enterAddr true with rs := true }

/-- Entering `DATA` to send byte v (rule R149). -/
def Block.enterSend (v : Byte) (b : Block) : Block :=
  { b with shreg := v, phase := .data }

/-- Entering `DATA` to send byte v as the data byte with index j (rules R27, R149). -/
def Block.enterSendAt (j : Byte) (v : Byte) (b : Block) : Block :=
  { b.enterSend v with byteI := j }

/-- Entering `DATA` to receive (rule R149). -/
def Block.enterReceive (b : Block) : Block := { b with phase := .data }

/-- Entering the second Start of ReadReg, no Stop before it (rules R145, R149). -/
def Block.enterRstart (b : Block) : Block := { b with phase := .rstart }

/-- Entering `STOP` at the end of the planned bytes (rules R140, R149). -/
def Block.enterStop (b : Block) : Block := { b with phase := .stop }

/-- Entering `STOP` after a ReceiveByte: `RXDATA <- SHREG` (rules R34, R149). -/
def Block.enterStopReceived (b : Block) : Block :=
  { b with rxdata := b.shreg, phase := .stop }

/-- TAKING THE EXCEPTION, `raise NotAcknowledged`: `ERR <- 1`, and control goes to the Stop sequence; nothing is
saved (rules R140, R173). -/
def Block.abort (b : Block) : Block := b.setError.enterStop

/-- THE RETURN, the end of every command, aborted or not: the Stop is complete, `RSPV <- 1`, back to `IDLE`
(rules R149, R150, R174). -/
def Block.respond (b : Block) : Block := { b with rspv := true, phase := .idle }

/-- The reset input: every register takes its reset value; what is not the block's stays (rules R190, R192;
log entries 7 and 8). -/
def State.resetBlock (s : State) : State := { s with block := Block.reset }

/-- `MemRead(i, 1)` of the payload memory (rule R56). -/
def State.pay (s : State) (i : Byte) : Byte := s.env.payload.read i

/-- `DELAY_UNITS` of this machine (rule R7). -/
def State.du (s : State) : Nat := delayUnits s.delay

end Sys2Proof.Machine
end

