-- ==== Sys2Proof/Machine/MicroOps.lean ====
section
/-! DEFINITION. The micro-op tables (rules R110, R111, R130, R131) and the micro-step (rule R148). -/

namespace Sys2Proof.Machine

/-- An event (rule R11). -/
inductive Event where
  /-- `c`: Clock driven low. -/
  | clockLow
  /-- `C`: Clock driven high. -/
  | clockHigh
  /-- `d`: Data driven low. -/
  | dataLow
  /-- `D`: Data driven high or released. -/
  | dataHigh
  /-- `w`: one `wait_half_bit`. -/
  | wait
  /-- `L`: a sample that read low. -/
  | sampleLow
  /-- `H`: a sample that read high. -/
  | sampleHigh
  deriving DecidableEq, Repr

/-- The event of `setClock(l)` (rule R10). -/
def clockEvent (l : Level) : Event := if l then .clockHigh else .clockLow

/-- The event of `setData(l)` (rule R10). -/
def dataEvent (l : Level) : Event := if l then .dataHigh else .dataLow

/-- The event of a `readData()` that answered l (rule R10). -/
def sampleEvent (l : Level) : Event := if l then .sampleHigh else .sampleLow

/-- What one step of a primitive does (rules R110, R111, R130, R131). -/
inductive MicroOp where
  /-- `setClock(l)`. -/
  | setClock (l : Level)
  /-- `setData(l)`. -/
  | setData (l : Level)
  /-- `setData(SHREG[i])`. -/
  | setDataBit (i : Fin 8)
  /-- `setData(1)`; `SHREG <- 0` (rule R125). -/
  | release
  /-- `setClock(1)`; `POLL_CNT <- 0` (rule R130, row 60). -/
  | setClockPoll
  /-- `wait_half_bit()`. -/
  | wait
  /-- One sample of the acknowledgment poll (rule R130, row 61). -/
  | poll
  /-- `s <- readData(); SHREG[i] <- s` (rule R126). -/
  | sampleBit (i : Fin 8)
  deriving DecidableEq, Repr

/-- A row of a micro-op table: the micro-op, and whether its completion completes the primitive. -/
structure MicroRow where
  op : MicroOp
  last : Bool
  deriving DecidableEq, Repr

/-- A row that is not the last of its primitive. -/
def MicroRow.inner (op : MicroOp) : MicroRow := { op := op, last := false }

/-- The last row of a primitive. -/
def MicroRow.final (op : MicroOp) : MicroRow := { op := op, last := true }

/-- Start: `cwDwCwdw` (rule R110). -/
def startRow : Nat → Option MicroRow
  | 0 => some (.inner (.setClock false))
  | 1 => some (.inner .wait)
  | 2 => some (.inner (.setData true))
  | 3 => some (.inner .wait)
  | 4 => some (.inner (.setClock true))
  | 5 => some (.inner .wait)
  | 6 => some (.inner (.setData false))
  | 7 => some (.final .wait)
  | _ => none

/-- Stop: `cwdwCwDw` (rule R111). -/
def stopRow : Nat → Option MicroRow
  | 0 => some (.inner (.setClock false))
  | 1 => some (.inner .wait)
  | 2 => some (.inner (.setData false))
  | 3 => some (.inner .wait)
  | 4 => some (.inner (.setClock true))
  | 5 => some (.inner .wait)
  | 6 => some (.inner (.setData true))
  | 7 => some (.final .wait)
  | _ => none

/-- The bit index of slot j, most significant bit first: 7 - j (rules R57, R130, R131). -/
def slotBit (j : Nat) : Fin 8 := Fin.ofNat 8 (7 - j)

/-- The rows of a SendByte bit slot, m = K mod 7 (rules R120, R130). -/
def sendSlotOp (i : Fin 8) : Nat → MicroOp
  | 0 => .setClock false
  | 2 => .setDataBit i
  | 4 => .setClock true
  | _ => .wait

/-- SendByte at index k (rule R130): `cwXwCww` eight times, then `cDwwC`, the poll, `ww`. -/
def sendRow (k : Nat) : MicroRow :=
  if k < 56 then .inner (sendSlotOp (slotBit (k / 7)) (k % 7))
  else if k = 56 then .inner (.setClock false)
  else if k = 57 then .inner (.setData true)
  else if k = 60 then .inner .setClockPoll
  else if k = 61 then .inner .poll
  else if k = 63 then .final .wait
  else .inner .wait

/-- The rows of a ReceiveByte bit slot, m = (K - 1) mod 7 (rules R126, R131). -/
def receiveSlotOp (i : Fin 8) : Nat → MicroOp
  | 0 => .setClock false
  | 3 => .setClock true
  | 5 => .sampleBit i
  | _ => .wait

/-- ReceiveByte at index k (rule R131): `D`, then `cwwCwSw` eight times, then `cwDwCww`. -/
def receiveRow (k : Nat) : MicroRow :=
  if k = 0 then .inner .release
  else if k < 57 then .inner (receiveSlotOp (slotBit ((k - 1) / 7)) ((k - 1) % 7))
  else if k = 57 then .inner (.setClock false)
  else if k = 59 then .inner (.setData true)
  else if k = 61 then .inner (.setClock true)
  else if k = 63 then .final .wait
  else .inner .wait

/-- The row of the running primitive at the current K (rule R148); `receives` says which table `DATA` uses. -/
def Block.row (receives : Bool) (b : Block) : Option MicroRow :=
  match b.phase with
  | .idle => none
  | .start => startRow b.k.toNat
  | .rstart => startRow b.k.toNat
  | .stop => stopRow b.k.toNat
  | .addr => some (sendRow b.k.toNat)
  | .data => some (if receives then receiveRow b.k.toNat else sendRow b.k.toNat)

/-- The register writes of a micro-op in one clock cycle, and how it leaves the primitive; `l` is the level of
the Data line at this step (rules R101, R130, R131, R148). -/
def MicroOp.run (du : Nat) (l : Level) (b : Block) : MicroOp → Block × Fate
  | .setClock x => (b.setClock x, .done)
  | .setData x => (b.setData x, .done)
  | .setDataBit i => (b.setData (bitOf b.shreg i), .done)
  | .release => ((b.setData true).withShreg 0, .done)
  | .setClockPoll => ((b.setClock true).withPollCnt 0, .done)
  | .wait => b.waitCycle du
  | .poll => b.pollSample du l
  | .sampleBit i => (b.withShreg (withBit b.shreg i l), .done)

/-- Whether the micro-op samples the Data line. -/
def MicroOp.samples : MicroOp → Bool
  | .setClock _ => false
  | .setData _ => false
  | .setDataBit _ => false
  | .release => false
  | .setClockPoll => false
  | .wait => false
  | .poll => true
  | .sampleBit _ => true

/-- The event of the micro-op in this cycle (rules R10, R148): a wait emits its one event in the cycle that
completes it (log entry 1). -/
def MicroOp.event (du : Nat) (l : Level) (b : Block) : MicroOp → Option Event
  | .setClock x => some (clockEvent x)
  | .setData x => some (dataEvent x)
  | .setDataBit i => some (dataEvent (bitOf b.shreg i))
  | .release => some .dataHigh
  | .setClockPoll => some .clockHigh
  | .wait => if (b.waitCycle du).2 = .done then some .wait else none
  | .poll => some (sampleEvent l)
  | .sampleBit _ => some (sampleEvent l)

/-- What is a command's own in the state machine: whether `DATA` receives (rule R146), and its rows of the
table of rule R149. -/
structure Plan where
  /-- Whether `DATA` receives at this point of the command. -/
  receives : Block → Bool
  /-- The registers once the running primitive has completed; `pay` reads the payload memory. None: the command
  never runs that primitive. -/
  after : (Byte → Byte) → Block → Option Block

/-- The registers after a row has completed its micro-op: K moves on, or the primitive completes, which sets
K <- 0 and makes the command's transition in the same step (rules R148, R149). -/
def Plan.complete (p : Plan) (pay : Byte → Byte) (last : Bool) (b : Block) : Option Block :=
  if last then (p.after pay b).map (Block.withK 0)
  else some (b.withK (b.k + 1))

/-- The registers after one clock cycle of a row's micro-op (rule R148). -/
def Plan.rowStep (p : Plan) (du : Nat) (l : Level) (pay : Byte → Byte) (row : MicroRow) (b : Block) :
    Option Block :=
  match row.op.run du l b with
  | (b', .hold) => some b'
  | (b', .done) => p.complete pay row.last b'
  | (b', .giveUp) => p.complete pay true b'

/-- The environment after a row: a sample takes the next level of the Data line. -/
def MicroRow.useEnv (row : MicroRow) (e : Env) : Env :=
  if row.op.samples then e.takeSample else e

/-- One clock cycle of a command in flight (rule R148). -/
def microStep (p : Plan) (s : State) : Host.Outcome State Fault Refusal :=
  match s.block.row (p.receives s.block) with
  | none => .fault .noMicroOp
  | some row =>
    match p.rowStep s.du s.env.dataLevel s.pay row s.block with
    | none => .fault .noTransition
    | some b => .next { s with block := b, env := row.useEnv s.env }

/-- What command i does next: in `IDLE` it is accepted (rule R147); in every other phase it is in flight and
runs one clock cycle of its current micro-op (rule R148). -/
def commandStep (i : Instr) (p : Plan) (s : State) : Host.Outcome State Fault Refusal :=
  if s.block.phase = .idle then .next { s with block := s.block.accept i }
  else microStep p s

end Sys2Proof.Machine
end

