-- ==== Sys2Proof/Machine/Reads.lean ====
section
/-! DEFINITION. The two read commands (rules R144, R145). -/

namespace Sys2Proof.Machine

/-- `READ_BYTE`'s rows of rule R149. -/
def readByteAfter (_pay : Byte → Byte) (b : Block) : Option Block :=
  match b.phase with
  | .start => some (b.enterAddr true)
  | .addr => some (if b.ackf then b.enterReceive else b.abort)
  | .data => some b.enterStopReceived
  | .stop => some b.respond
  | .rstart => none
  | .idle => none

/-- `READ_BYTE` receives in `DATA` (rule R146). -/
def readBytePlan : Plan := { receives := fun _ => true, after := readByteAfter }

/-- `READ_BYTE` (rule R144): Start, SendAddress(A, 1), ReceiveByte into `RXDATA`, Stop; abort when the address
is not acknowledged. One clock cycle of it. -/
def execReadByte (a : Addr) (ignReg ignData : Byte) (s : State) : Host.Outcome State Fault Refusal :=
  commandStep (.readByte a ignReg ignData) readBytePlan s

/-- `READ_REG`'s rows of rule R149: `RS` tells the first address phase from the second and the register-byte
phase from the receive phase (rule R28). -/
def readRegAfter (_pay : Byte → Byte) (b : Block) : Option Block :=
  match b.phase with
  | .start => some (b.enterAddr false)
  | .rstart => some b.enterSecondAddr
  | .addr =>
    some (if b.ackf then (if b.rs then b.enterReceive else b.enterSend b.rl) else b.abort)
  | .data =>
    some (if b.rs then b.enterStopReceived else if b.ackf then b.enterRstart else b.abort)
  | .stop => some b.respond
  | .idle => none

/-- `READ_REG` receives in `DATA` once the second Start has been run (rule R146). -/
def readRegPlan : Plan := { receives := fun b => b.rs, after := readRegAfter }

/-- `READ_REG` (rule R145): Start, SendAddress(A, 0), SendByte(R), a second Start with no Stop before it,
SendAddress(A, 1), ReceiveByte into `RXDATA`, Stop; abort on the first NotAcknowledged. One clock cycle of it. -/
def execReadReg (a : Addr) (r ignData : Byte) (s : State) : Host.Outcome State Fault Refusal :=
  commandStep (.readReg a r ignData) readRegPlan s

end Sys2Proof.Machine
end

