-- ==== Sys2Proof/Machine/Writes.lean ====
section
/-! DEFINITION. The three write commands (rules R141, R142, R143). -/

namespace Sys2Proof.Machine

/-- `WRITE_BYTE`'s rows of rule R149. -/
def writeByteAfter (_pay : Byte → Byte) (b : Block) : Option Block :=
  match b.phase with
  | .start => some (b.enterAddr false)
  | .addr => some (if b.ackf then b.enterSend b.dat else b.abort)
  | .data => some (if b.ackf then b.enterStop else b.abort)
  | .stop => some b.respond
  | .rstart => none
  | .idle => none

/-- `WRITE_BYTE` never receives (rule R146). -/
def writeBytePlan : Plan := { receives := fun _ => false, after := writeByteAfter }

/-- `WRITE_BYTE` (rule R141): Start, SendAddress(A, 0), SendByte(DAT), Stop; abort on the first
NotAcknowledged. One clock cycle of it. -/
def execWriteByte (a : Addr) (ignReg d : Byte) (s : State) : Host.Outcome State Fault Refusal :=
  commandStep (.writeByte a ignReg d) writeBytePlan s

/-- `WRITE_MULTI`'s rows of rule R149: byte i is read from the payload memory when its transfer begins
(rule R56). -/
def writeMultiAfter (pay : Byte → Byte) (b : Block) : Option Block :=
  match b.phase with
  | .start => some (b.enterAddr false)
  | .addr =>
    some (if b.ackf then (if b.rl = 0 then b.enterStop else b.enterSend (pay 0)) else b.abort)
  | .data =>
    some (if b.ackf then
      (if b.byteI.toNat + 1 < b.rl.toNat then b.enterSendAt (b.byteI + 1) (pay (b.byteI + 1))
        else b.enterStop)
      else b.abort)
  | .stop => some b.respond
  | .rstart => none
  | .idle => none

/-- `WRITE_MULTI` never receives (rule R146). -/
def writeMultiPlan : Plan := { receives := fun _ => false, after := writeMultiAfter }

/-- `WRITE_MULTI` (rule R142): Start, SendAddress(A, 0), SendByte of payload bytes 0..n-1 in ascending order,
Stop; abort on the first NotAcknowledged. One clock cycle of it. -/
def execWriteMulti (a : Addr) (n ignData : Byte) (s : State) : Host.Outcome State Fault Refusal :=
  commandStep (.writeMulti a n ignData) writeMultiPlan s

/-- `WRITE_REG`'s rows of rule R149; `BYTE_I` is 0 while the register byte is sent and 1 while the data byte is
sent (rule R27). The table has no row for another `BYTE_I` (U8). -/
def writeRegAfter (_pay : Byte → Byte) (b : Block) : Option Block :=
  match b.phase with
  | .start => some (b.enterAddr false)
  | .addr => some (if b.ackf then b.enterSend b.rl else b.abort)
  | .data =>
    if b.ackf then
      if b.byteI = 0 then some (b.enterSendAt 1 b.dat)
      else if b.byteI = 1 then some b.enterStop
      else none
    else some b.abort
  | .stop => some b.respond
  | .rstart => none
  | .idle => none

/-- `WRITE_REG` never receives (rule R146). -/
def writeRegPlan : Plan := { receives := fun _ => false, after := writeRegAfter }

/-- `WRITE_REG` (rule R143): Start, SendAddress(A, 0), SendByte(R), SendByte(D), Stop; abort on the first
NotAcknowledged. One clock cycle of it. -/
def execWriteReg (a : Addr) (r d : Byte) (s : State) : Host.Outcome State Fault Refusal :=
  commandStep (.writeReg a r d) writeRegPlan s

end Sys2Proof.Machine
end

