-- ==== Sys2Proof/Machine/Dispatch.lean ====
section
/-! DEFINITION. One direct call of a meaning per command. -/

namespace Sys2Proof.Machine

open Sys2Proof

def exec (i : Instr) (s : State) : Host.Outcome State Fault Refusal :=
  match i with
  | .writeByte a ignReg d => Sys2Proof.Machine.execWriteByte a ignReg d s
  | .writeMulti a n ignData => Sys2Proof.Machine.execWriteMulti a n ignData s
  | .writeReg a r d => Sys2Proof.Machine.execWriteReg a r d s
  | .readByte a ignReg ignData => Sys2Proof.Machine.execReadByte a ignReg ignData s
  | .readReg a r ignData => Sys2Proof.Machine.execReadReg a r ignData s

end Sys2Proof.Machine
end

