-- ==== Sys2Proof/Machine/Fetch.lean ====
section
/-! DEFINITION. What a clock cycle is spent on: the reset pin, the command port, the command in flight. -/

namespace Sys2Proof.Machine

/-- What the host does in the coming clock cycle (rule R44; log entry 3). -/
def State.hostNow (s : State) : HostCycle :=
  match s.env.host with
  | h :: _ => h
  | [] => .quiet

/-- The payload memory in a cycle of the host: its write is there for the block's read of the same cycle
(rule R56, `pl_data` is combinational; log entry 6). -/
def HostCycle.store (h : HostCycle) (m : Memory) : Memory :=
  match h.plWrite with
  | some (i, v) => m.write i v
  | none => m

/-- The state the block works on in this cycle: the host's cycle is used up and its payload write has landed. -/
def State.beginCycle (s : State) : State :=
  { s with env := { s.env with host := s.env.host.tail, payload := s.hostNow.store s.env.payload } }

/-- What a clock cycle is spent on. -/
inductive Action where
  /-- `rst_n` = 0 (rule R190). -/
  | reset
  /-- `IDLE`, and no word presented. -/
  | idle
  /-- `IDLE`, and an illegal word presented (rule R177). -/
  | refuse
  /-- `IDLE`, and a legal word presented, to be accepted (rule R147); or a busy phase, with the command the
  latch holds in flight (rule R148). -/
  | run (i : Instr)
  /-- A busy phase with no command in the latch (U8). -/
  | lost
  deriving DecidableEq, Repr

/-- Reset has priority (rules R176, R190); the command port is looked at in `IDLE` only (rules R68, R147). -/
def State.action (s : State) : Action :=
  if s.hostNow.rstN = false then .reset
  else if s.block.phase = .idle then
    if s.hostNow.cmdValid = false then .idle
    else
      match decode s.hostNow.cmdWord with
      | .command i => .run i
      | .illegal _ => .refuse
  else
    match s.block.command with
    | some i => .run i
    | none => .lost

end Sys2Proof.Machine
end

