-- ==== Sys2Proof/Machine/Step.lean ====
section
/-! DEFINITION. One step of the machine: one clock cycle (rules R44, R148; log entry 1). -/

namespace Sys2Proof.Machine

/-- One clock cycle: reset, or an idle cycle, or the refusal of an illegal word, or one cycle of a command. -/
def step (s : State) : Host.Outcome State Fault Refusal :=
  match s.action with
  | .reset => .next s.beginCycle.resetBlock
  | .idle => .next { s.beginCycle with block := s.block.idleCycle }
  | .refuse => .next { s.beginCycle with block := s.block.refuse }
  | .run i => exec i s.beginCycle
  | .lost => .refused .latchHoldsNoCommand

/-- The state with a command word on the command port: the host presents it in the coming cycle, without reset,
and the block is in `IDLE`, where alone a word is accepted (rule R147). The rest of that cycle, the cycles after
it and every other register stay (log entry 13). -/
def State.withFetchWord (s : State) (nbits w : Nat) : State :=
  { s with
    block := { s.block with phase := .idle, k := 0, hbCnt := 0 }
    env := { s.env with
      host := { s.hostNow with rstN := true, cmdValid := true, cmdWord := BitVec.ofNat 32 (w % 2 ^ nbits) }
        :: s.env.host.tail } }

end Sys2Proof.Machine
end

