-- ==== Sys2Proof/Machine/EventLevel.lean ====
section
/-! DEFINITION. The event level (rules R8, R10, R11): the primitives and the five commands as the pseudocode of
rules R110, R111, R124, R128, R129 and R141 to R145 gives them, as traces and results over an environment that
answers sample number p with `smp p` (rule R52). No duration, no registers. -/

namespace Sys2Proof.Machine

/-- A trace: events in the order they happen (rule R11). -/
abbrev Trace := List Event

/-- `Start()` (rule R110). -/
def startTrace : Trace :=
  [.clockLow, .wait, .dataHigh, .wait, .clockHigh, .wait, .dataLow, .wait]

/-- `Stop()` (rule R111). -/
def stopTrace : Trace :=
  [.clockLow, .wait, .dataLow, .wait, .clockHigh, .wait, .dataHigh, .wait]

/-- The bit indices of a byte in transfer order: 7, 6, …, 0 (rule R57). -/
def bitOrder : List (Fin 8) := [7, 6, 5, 4, 3, 2, 1, 0]

/-- One bit slot of SendByte (rule R120). -/
def sendSlot (x : Level) : Trace :=
  [.clockLow, .wait, dataEvent x, .wait, .clockHigh, .wait, .wait]

/-- The acknowledgment slot up to the poll (rule R121). -/
def ackSlot : Trace := [.clockLow, .dataHigh, .wait, .wait, .clockHigh]

/-- What a SendByte, or its poll, comes to: its events, its AcknowledgmentOutcome, the number of the next sample. -/
structure SendRun where
  trace : Trace
  acked : Bool
  nextSample : Nat
  deriving DecidableEq, Repr

/-- The acknowledgment poll with so many samples left (rules R122, R124). -/
def pollRun (smp : Nat → Level) : Nat → Nat → SendRun
  | 0, p => { trace := [], acked := false, nextSample := p }
  | left + 1, p =>
    if smp p = false then { trace := [.sampleLow], acked := true, nextSample := p + 1 }
    else
      { pollRun smp left (p + 1) with trace := .sampleHigh :: (pollRun smp left (p + 1)).trace }

/-- `SendByte(v)` (rule R124): the bit loop, the acknowledgment slot, the poll of at most `bound` samples, and
two waits when acknowledged (rule R123). -/
def sendByte (bound : Nat) (smp : Nat → Level) (p : Nat) (v : Byte) : SendRun :=
  { pollRun smp bound p with
    trace := (bitOrder.flatMap fun i => sendSlot (bitOf v i)) ++ ackSlot ++ (pollRun smp bound p).trace
      ++ if (pollRun smp bound p).acked then [.wait, .wait] else [] }

/-- One bit slot of ReceiveByte whose sample read x (rule R126). -/
def receiveSlot (x : Level) : Trace :=
  [.clockLow, .wait, .wait, .clockHigh, .wait, sampleEvent x, .wait]

/-- The master's NotAcknowledged after a received byte (rule R127). -/
def nackSlot : Trace := [.clockLow, .wait, .dataHigh, .wait, .clockHigh, .wait, .wait]

/-- The sample a ReceiveByte that begins at sample p takes for bit i: bit 7 first (rules R57, R126). -/
def receiveSample (smp : Nat → Level) (p : Nat) (i : Fin 8) : Level := smp (p + (7 - i.val))

/-- The value a ReceiveByte assembles: `SHREG <- 0`, then `SHREG[i] <- s` for each sample (rules R125, R126). -/
def receiveValue (smp : Nat → Level) (p : Nat) : Byte :=
  bitOrder.foldl (fun v i => withBit v i (receiveSample smp p i)) 0

/-- `ReceiveByte()` (rule R128): its events. -/
def receiveTrace (smp : Nat → Level) (p : Nat) : Trace :=
  [.dataHigh] ++ (bitOrder.flatMap fun i => receiveSlot (receiveSample smp p i)) ++ nackSlot

/-- A primitive of a command between the Start it begins with and the Stop it ends with (rule R140). -/
inductive Prim where
  /-- `Start()`, the first or the second. -/
  | start
  /-- `SendByte(v)`, which SendAddress is too (rule R129). -/
  | send (v : Byte)
  /-- `RXDATA <- ReceiveByte()`. -/
  | receive
  deriving DecidableEq, Repr

/-- A token of a trace (rule R12). -/
inductive Token where
  /-- `S`, one Start. -/
  | start
  /-- `P`, one Stop. -/
  | stop
  /-- `T(v, A)` when acked, `T(v, N)` when not: one SendByte. -/
  | sent (v : Byte) (acked : Bool)
  /-- `R(v)`, one ReceiveByte. -/
  | received (v : Byte)
  deriving DecidableEq, Repr

/-- The trace is a block of events the token names (rule R12): one Start, one Stop, one SendByte of the value that
was acknowledged within `bound` samples or was not, one ReceiveByte whose samples are the bits of the value. -/
def Token.Names (bound : Nat) : Token → Trace → Prop
  | .start, t => t = startTrace
  | .stop, t => t = stopTrace
  | .sent v true, t => ∃ highs, highs < bound ∧
      t = (bitOrder.flatMap fun i => sendSlot (bitOf v i)) ++ ackSlot ++
        (List.replicate highs .sampleHigh ++ [.sampleLow, .wait, .wait])
  | .sent v false, t =>
      t = (bitOrder.flatMap fun i => sendSlot (bitOf v i)) ++ ackSlot ++ List.replicate bound .sampleHigh
  | .received v, t =>
      t = [.dataHigh] ++ (bitOrder.flatMap fun i => receiveSlot (bitOf v i)) ++ nackSlot

/-- What a command, or a part of one, comes to (rules R140 to R145). -/
structure CommandRun where
  trace : Trace
  tokens : List Token
  /-- TransactionResult: true is Ok, false is Error. -/
  ok : Bool
  /-- The byte received, if a ReceiveByte ran. -/
  rx : Option Byte
  nextSample : Nat
  deriving DecidableEq, Repr

/-- A primitive's events and token in front of what follows it. -/
def CommandRun.after (tr : Trace) (tok : Token) (r : CommandRun) : CommandRun :=
  { r with trace := tr ++ r.trace, tokens := tok :: r.tokens }

/-- Runs primitives in order up to the first NotAcknowledged, which skips the rest (rules R140, R173). -/
def bodyRun (bound : Nat) (smp : Nat → Level) : List Prim → Nat → CommandRun
  | [], p => { trace := [], tokens := [], ok := true, rx := none, nextSample := p }
  | .start :: rest, p => (bodyRun bound smp rest p).after startTrace .start
  | .send v :: rest, p =>
    if (sendByte bound smp p v).acked then
      (bodyRun bound smp rest (sendByte bound smp p v).nextSample).after (sendByte bound smp p v).trace (.sent v true)
    else
      { trace := (sendByte bound smp p v).trace, tokens := [.sent v false], ok := false, rx := none,
        nextSample := (sendByte bound smp p v).nextSample }
  | .receive :: rest, p =>
    { (bodyRun bound smp rest (p + 8)).after (receiveTrace smp p) (.received (receiveValue smp p)) with
      rx := some (receiveValue smp p) }

/-- WriteByte(A, D) (rule R141). -/
def writeByteBody (a : Addr) (d : Byte) : List Prim :=
  [.start, .send (addressByte a false), .send d]

/-- WriteMultiBytes(A, n): `data[i] = MemRead(i, 1)` for i = 0..n-1, ascending (rule R142). -/
def writeMultiBody (pay : Byte → Byte) (a : Addr) (n : Byte) : List Prim :=
  [.start, .send (addressByte a false)] ++ (List.range n.toNat).map fun i => .send (pay (BitVec.ofNat 8 i))

/-- WriteReg(A, R, D) (rule R143). -/
def writeRegBody (a : Addr) (r d : Byte) : List Prim :=
  [.start, .send (addressByte a false), .send r, .send d]

/-- ReadByte(A) (rule R144). -/
def readByteBody (a : Addr) : List Prim :=
  [.start, .send (addressByte a true), .receive]

/-- ReadReg(A, R), the second Start without an intervening Stop (rule R145). -/
def readRegBody (a : Addr) (r : Byte) : List Prim :=
  [.start, .send (addressByte a false), .send r, .start, .send (addressByte a true), .receive]

/-- The primitives of a command before its Stop; `pay` is the payload memory, the same throughout (log entry 17). -/
def commandBody (pay : Byte → Byte) : Instr → List Prim
  | .writeByte a _ d => writeByteBody a d
  | .writeMulti a n _ => writeMultiBody pay a n
  | .writeReg a r d => writeRegBody a r d
  | .readByte a _ _ => readByteBody a
  | .readReg a r _ => readRegBody a r

/-- A command from acceptance to response (rules R140 to R145): its primitives, and one Stop on every path. -/
def commandRun (bound : Nat) (smp : Nat → Level) (pay : Byte → Byte) (p : Nat) (i : Instr) : CommandRun :=
  { bodyRun bound smp (commandBody pay i) p with
    trace := (bodyRun bound smp (commandBody pay i) p).trace ++ stopTrace
    tokens := (bodyRun bound smp (commandBody pay i) p).tokens ++ [.stop] }

/-- The clock cycles of an event: `DELAY_UNITS` for a wait, one for every other (rules R101, R148). -/
def Event.cycles (du : Nat) : Event → Nat
  | .wait => du
  | .clockLow => 1
  | .clockHigh => 1
  | .dataLow => 1
  | .dataHigh => 1
  | .sampleLow => 1
  | .sampleHigh => 1

/-- The clock cycles of a trace, `NW + NS + DELAY_UNITS * Nw` (rule R203). -/
def traceCycles (du : Nat) (t : Trace) : Nat := (t.map (Event.cycles du)).sum

/-- What a monitor of the master's side of the lines reports (rules R70, R71). -/
inductive Seen where
  | start
  | stop
  | bit (x : Level)
  deriving DecidableEq, Repr

/-- A monitor's memory: the levels driven, and what it has reported, the latest first. -/
structure Monitor where
  scl : Level
  sda : Level
  seen : List Seen
  deriving DecidableEq, Repr

/-- Before the first event both lines are released. -/
def Monitor.init : Monitor := { scl := true, sda := true, seen := [] }

/-- A condition takes the place of the single bit read just before it (rule R71). -/
def dropBit : List Seen → List Seen
  | .bit _ :: rest => rest
  | l => l

/-- One event on the master's side: a Start condition is Data falling while Clock is high, a Stop condition Data
rising while Clock is high (rule R70); a bit is `SDA` at a rising Clock (rule R71). -/
def Monitor.on (m : Monitor) : Event → Monitor
  | .clockLow => { m with scl := false }
  | .clockHigh => { m with scl := true, seen := if m.scl then m.seen else .bit m.sda :: m.seen }
  | .dataLow =>
    { m with sda := false, seen := if m.scl && m.sda then .start :: dropBit m.seen else m.seen }
  | .dataHigh =>
    { m with sda := true, seen := if m.scl && !m.sda then .stop :: dropBit m.seen else m.seen }
  | .wait => m
  | .sampleLow => m
  | .sampleHigh => m

/-- What a monitor that starts on an idle bus reports of a trace, in order (rules R70, R71). -/
def monitorOf (t : Trace) : List Seen := (t.foldl Monitor.on Monitor.init).seen.reverse

end Sys2Proof.Machine
end

