-- ==== Sys2Proof/Machine/Trace.lean ====
section
/-! DEFINITION. What a step shows on the lines (rules R11, R65), and runs of many steps. -/

namespace Sys2Proof.Machine

/-- What is a command's own in the state machine. -/
def planOf : Instr → Plan
  | .writeByte _ _ _ => writeBytePlan
  | .writeMulti _ _ _ => writeMultiPlan
  | .writeReg _ _ _ => writeRegPlan
  | .readByte _ _ _ => readBytePlan
  | .readReg _ _ _ => readRegPlan

/-- The event this clock cycle emits, if any (rules R11, R148): none in `IDLE`, none at reset, none in a cycle
of a wait but its last. -/
def State.event (s : State) : Option Event :=
  match s.action with
  | .run i =>
    match s.block.row ((planOf i).receives s.block) with
    | some row => row.op.event s.du s.env.dataLevel s.block
    | none => none
  | .reset => none
  | .idle => none
  | .refuse => none
  | .lost => none

/-- The machine after n clock cycles, stopping where a step stops. -/
def runFor : Nat → State → Host.Outcome State Fault Refusal
  | 0, s => .next s
  | n + 1, s =>
    match step s with
    | .next t => runFor n t
    | .fault f => .fault f
    | .refused r => .refused r

/-- The trace of n clock cycles (rule R11). -/
def traceFor : Nat → State → List Event
  | 0, _ => []
  | n + 1, s =>
    s.event.toList ++
      match step s with
      | .next t => traceFor n t
      | .fault _ => []
      | .refused _ => []

end Sys2Proof.Machine
end

