-- ==== Sys2Proof/Machine/Ports.lean ====
section
/-! DEFINITION. The output ports (rule R44), as functions of the state. -/

namespace Sys2Proof.Machine

/-- The registers as the ports show them in this cycle: while `rst_n` is 0 every register holds its reset value
(rules R44, R190). -/
def State.registers (s : State) : Block :=
  if s.hostNow.rstN = false then Block.reset else s.block

/-- `cmd_ready` (rules R40, R44). -/
def State.cmdReady (s : State) : Bool := s.registers.phase == .idle

/-- `rsp_valid` (rule R44). -/
def State.rspValid (s : State) : Bool := s.registers.rspv

/-- `rsp_err`: the TransactionResult, 0 = Ok, 1 = Error (rules R44, R171). -/
def State.rspErr (s : State) : Bool := s.registers.err

/-- `rsp_ill` (rule R44). -/
def State.rspIll (s : State) : Bool := s.registers.ill

/-- `rsp_data` (rule R44). -/
def State.rspData (s : State) : Byte := s.registers.rxdata

/-- `scl_o` (rule R44). -/
def State.sclO (s : State) : Level := s.registers.scl

/-- `sda_o` (rule R44). -/
def State.sdaO (s : State) : Level := s.registers.sda

/-- The payload address `WRITE_MULTI` reads when the running primitive has completed and left these registers
(rules R56, R149). -/
def Block.payloadRead (b : Block) : Option Byte :=
  match b.phase with
  | .addr => if b.ackf = true ∧ b.rl ≠ 0 then some 0 else none
  | .data => if b.ackf = true ∧ b.byteI.toNat + 1 < b.rl.toNat then some (b.byteI + 1) else none
  | .idle => none
  | .start => none
  | .rstart => none
  | .stop => none

/-- `pl_addr` in a cycle in which the block reads the payload memory (rules R44, R56); what stands on the port in
other cycles the spec does not say (log entry 16). -/
def State.plAddr (s : State) : Option Byte :=
  match s.action with
  | .run (.writeMulti _ _ _) =>
    match s.block.row false with
    | some row =>
      match row.last, row.op.run s.du s.env.dataLevel s.block with
      | true, (b, .done) => b.payloadRead
      | _, _ => none
    | none => none
  | _ => none

end Sys2Proof.Machine
end

