-- ==== Sys2Proof/WellFormed.lean ====
section
/-! DEFINITION. Which commands the assembler can write (rules R90, R91): those with every ignored field 0.
The other legal words run too (rule R87); decoding and the machine never ask for well-formedness. -/

namespace Sys2Proof

/-- The command with its ignored fields set to 0: the canonical form of rule R91. -/
def Instr.canonical : Instr → Instr
  | .writeByte a _ d => .writeByte a 0 d
  | .writeMulti a n _ => .writeMulti a n 0
  | .writeReg a r d => .writeReg a r d
  | .readByte a _ _ => .readByte a 0 0
  | .readReg a r _ => .readReg a r 0

/-- Canonical: every field the command ignores is 0 (rule R91; log entry 12). -/
def Instr.wellFormed : Instr → Bool
  | .writeByte _ ignReg _ => ignReg == 0
  | .writeMulti _ _ ignData => ignData == 0
  | .writeReg _ _ _ => true
  | .readByte _ ignReg ignData => ignReg == 0 && ignData == 0
  | .readReg _ _ ignData => ignData == 0

end Sys2Proof
end

