-- ==== Sys2Proof/Safety.lean ====
section
/-! DEFINITION. What counts as a safe run: the register values rule out what no run reaches (U8), and the lines
stand where the running primitive has put them. And the premises about host and environment that claims name. -/

namespace Sys2Proof.Machine

/-- `(SCL, SDA)` before micro-op k of Start (rule R110), entered on an idle or released bus. -/
def startLevels (k : Nat) : Level × Level :=
  (decide (k = 0 ∨ 5 ≤ k), decide (k ≠ 7))

/-- `(SCL, SDA)` before micro-op k of Stop (rule R111), entered on a released bus. -/
def stopLevels (k : Nat) : Level × Level :=
  (decide (k = 0 ∨ 5 ≤ k), decide (k ≤ 2 ∨ k = 7))

/-- `(SCL, SDA)` before micro-op k of a SendByte of v (rule R130) entered with Clock high and Data at `entry`. -/
def sendLevels (entry : Level) (v : Byte) (k : Nat) : Level × Level :=
  (decide ((k < 56 ∧ (k % 7 = 0 ∨ 5 ≤ k % 7)) ∨ k = 56 ∨ 61 ≤ k),
    if k < 3 then entry else if k < 58 then bitOf v (slotBit ((k - 3) / 7)) else true)

/-- `(SCL, SDA)` before micro-op k of a ReceiveByte (rule R131). -/
def receiveLevels (k : Nat) : Level × Level :=
  (decide (k = 0 ∨ (k < 57 ∧ ((k - 1) % 7 = 0 ∨ 4 ≤ (k - 1) % 7)) ∨ k = 57 ∨ 62 ≤ k), true)

/-- The levels the master drives before the next micro-op, by position (rules R110, R111, R113, R130 to R132). -/
def Block.levels (b : Block) : Level × Level :=
  match b.phase with
  | .idle => (true, true)
  | .start => startLevels b.k.toNat
  | .rstart => startLevels b.k.toNat
  | .stop => stopLevels b.k.toNat
  | .addr => sendLevels false b.shreg b.k.toNat
  | .data => if b.receives then receiveLevels b.k.toNat else sendLevels true b.shreg b.k.toNat

/-- A SendByte is running: `ADDR`, or `DATA` with a byte to send (rules R130, R146). -/
def Block.sending (b : Block) : Prop :=
  b.phase = .addr ∨ (b.phase = .data ∧ b.receives = false)

/-- The registers hold what some run leaves in them. -/
structure Block.Inv (du : Nat) (b : Block) : Prop where
  /-- K is 0 in `IDLE` (rule R25). -/
  idlePosition : b.phase = .idle → b.k = 0
  /-- K runs 0..7 in `START`, `RSTART` and `STOP` (rule R25). -/
  shortPosition : b.phase = .start ∨ b.phase = .rstart ∨ b.phase = .stop → b.k.toNat ≤ 7
  /-- Only legal words are latched (rules R26, R149). -/
  latched : b.phase ≠ .idle → b.command ≠ none
  /-- The second Start is ReadReg's and runs once (rules R28, R149). -/
  secondStart : b.phase = .rstart → b.op = 5 ∧ b.rs = false
  /-- `RS` is set in ReadReg only, and not in the first Start (rule R28). -/
  rsSet : b.phase ≠ .idle → b.rs = true → b.op = 5 ∧ b.phase ≠ .start
  /-- While busy there is no response and no refusal standing (rules R32, R33). -/
  noResponse : b.phase ≠ .idle → b.rspv = false ∧ b.ill = false
  /-- `ERR` is set only on the way out or after it, and never beside `ILL` (rules R31, R171). -/
  error : b.err = true → (b.phase = .stop ∨ b.phase = .idle) ∧ b.ill = false
  /-- `HB_CNT` stays below `DELAY_UNITS` (rule R101). -/
  halfBit : b.hbCnt.toNat < du
  /-- `HB_CNT` is 0 outside a wait (rule R35). -/
  halfBitIdle : b.hbCnt ≠ 0 → ∃ row, b.row b.receives = some row ∧ row.op = .wait
  /-- `POLL_CNT` stays below `POLL_BOUND` (rule R36). -/
  poll : b.pollCnt.toNat < pollBound du
  /-- `BYTE_I` never exceeds 254 (rule R27). -/
  byteIndex : b.byteI.toNat ≤ 254
  /-- `BYTE_I` is 0 until the first data byte has been sent (rule R27). -/
  byteIndexFirst : b.phase = .start ∨ b.phase = .addr ∨ b.phase = .rstart → b.byteI = 0
  /-- `BYTE_I` stays 0 in the commands that send no second data byte (rules R27, R149). -/
  byteIndexZero : b.phase = .data → b.op = 1 ∨ b.op = 4 ∨ b.op = 5 → b.byteI = 0
  /-- The data byte being sent is one of the n of `WRITE_MULTI` (rules R56, R149). -/
  byteIndexMulti : b.phase = .data → b.op = 2 → b.byteI.toNat < b.rl.toNat
  /-- The byte being sent in `DATA` by `WRITE_REG` is the register or the data byte (rule R27). -/
  byteIndexReg : b.phase = .data → b.op = 3 → b.byteI = 0 ∨ b.byteI = 1
  /-- After the poll a SendByte goes on only when acknowledged (rules R123, R130). -/
  acknowledged : b.sending → 62 ≤ b.k.toNat → b.ackf = true
  /-- The byte on the lines in `ADDR` is the address byte (rules R129, R149). -/
  addrByte : b.phase = .addr → b.shreg = addressByte b.a (b.op == 4 || b.rs)
  /-- The byte on the lines in `DATA` is the data byte of `WRITE_BYTE`, and the register byte and then the data
  byte of `WRITE_REG`, and the register byte of `READ_REG` (rules R141, R143, R145, R149). -/
  dataByte : b.phase = .data →
    (b.op = 1 → b.shreg = b.dat) ∧
    (b.op = 3 → b.shreg = if b.byteI = 0 then b.rl else b.dat) ∧
    (b.op = 5 → b.rs = false → b.shreg = b.rl)
  /-- The lines are where the running primitive has put them. -/
  lines : (b.scl, b.sda) = b.levels

/-- The invariant of the machine: the block's, and the canonical form of the payload memory. -/
structure State.Inv (s : State) : Prop where
  block : s.block.Inv s.du
  payload : s.env.payload.wf = true

/-- The host leaves the block alone for the coming n clock cycles: no reset and no change of the payload memory
(the premises of rules R192 and R196). Words it presents are allowed: a busy block does not look at them. -/
def HostHolds (n : Nat) (s : State) : Prop :=
  ∀ h ∈ s.env.host.take n, h.rstN = true ∧ h.plWrite = none

/-- The levels of the Data line at the samples to come: sample number p from here on (rule R52). -/
def Env.samples (e : Env) (p : Nat) : Level :=
  match e.dataIn[p]? with
  | some l => l
  | none => Config.dataLevel (e.sampleNo + p)

/-- The inputs after n clock cycles in which `taken` samples were taken and the host held. -/
def Env.advance (e : Env) (n taken : Nat) : Env :=
  { e with dataIn := e.dataIn.drop taken, sampleNo := e.sampleNo + taken, host := e.host.drop n }

/-- The clock cycle is the last of the current wait (rule R101). -/
def State.lastWaitCycle (s : State) : Prop := s.block.hbCnt.toNat + 1 = s.du

/-- The state with other contents of the latch's `RL`. -/
def State.withRl (x : Byte) (s : State) : State := { s with block := { s.block with rl := x } }

/-- The state with other contents of the latch's `DAT`. -/
def State.withDat (x : Byte) (s : State) : State := { s with block := { s.block with dat := x } }

/-- The state with other contents of the result registers `ERR`, `ILL` and `RXDATA`. -/
def State.withResults (err ill : Bool) (rx : Byte) (s : State) : State :=
  { s with block := { s.block with err := err, ill := ill, rxdata := rx } }

/-- The state with another command port in the coming clock cycle. -/
def State.withPort (valid : Bool) (w : Word) (s : State) : State :=
  { s with env := { s.env with
      host := { s.hostNow with cmdValid := valid, cmdWord := w } :: s.env.host.tail } }

/-- The state with another payload memory. -/
def State.withPayload (m : Memory) (s : State) : State := { s with env := { s.env with payload := m } }

/-- A next state changed by f; a stop stays. -/
def mapNext (f : State → State) : Host.Outcome State Fault Refusal → Host.Outcome State Fault Refusal
  | .next s => .next (f s)
  | .fault x => .fault x
  | .refused r => .refused r

end Sys2Proof.Machine
end

