-- ==== Sys2Proof/Certificates/Slice0/Obligations.lean ====
section
/-! DEFINITION. The statements about the model, each a closed proposition; OBLIGATIONS.json lists them. -/

open Sys2Proof Sys2Proof.Machine

/-! ### Encoding (30_encoding.md) -/

/-- Decoding the word of any command gives the command back, every field at every value (rules R81 to R83, R93). -/
def Obligations.DecodeEncode : Prop :=
  ∀ i : Instr, decode (encode i) = .command i

/-- A legal word is the word of the instruction it decodes to, so decoding drops no bit. THE MODEL'S CHOICE, log
entry 11: an `Instr` keeps the fields its command ignores. In the spec's sense words that differ in ignored fields are
one command with one canonical word (rules R87, R91), which `IgnoredFieldsSameCommand` states. -/
def Obligations.EncodeDecode : Prop :=
  ∀ (w : Word) (i : Instr), decode w = .command i → encode i = w

/-- A word is a command exactly when `w & 0x000080FF` is 1, 2, 3, 4 or 5, and illegal otherwise
(rules R83, R86, R93). -/
def Obligations.LegalByMask : Prop :=
  ∀ w : Word,
    ((∃ i, decode w = .command i) ↔ w &&& 0x000080FF ∈ ([1, 2, 3, 4, 5] : List Word)) ∧
    ((∃ why, decode w = .illegal why) ↔ w &&& 0x000080FF ∉ ([1, 2, 3, 4, 5] : List Word))

/-- Decoding in full: `OP` = w[2:0], `A` = w[14:8], `RL` = w[23:16], `DAT` = w[31:24], and the command is the one
`OP` names; a word whose `w & 0x000080FF` is none of 1 to 5 is illegal (rule R93). -/
def Obligations.DecodingInFull : Prop :=
  ∀ w : Word,
    (w &&& 0x000080FF ∉ ([1, 2, 3, 4, 5] : List Word) → ∃ why, decode w = .illegal why) ∧
    (w &&& 0x000080FF ∈ ([1, 2, 3, 4, 5] : List Word) →
      (w.extractLsb' 0 3 = 1 →
        decode w = .command (.writeByte (w.extractLsb' 8 7) (w.extractLsb' 16 8) (w.extractLsb' 24 8))) ∧
      (w.extractLsb' 0 3 = 2 →
        decode w = .command (.writeMulti (w.extractLsb' 8 7) (w.extractLsb' 16 8) (w.extractLsb' 24 8))) ∧
      (w.extractLsb' 0 3 = 3 →
        decode w = .command (.writeReg (w.extractLsb' 8 7) (w.extractLsb' 16 8) (w.extractLsb' 24 8))) ∧
      (w.extractLsb' 0 3 = 4 →
        decode w = .command (.readByte (w.extractLsb' 8 7) (w.extractLsb' 16 8) (w.extractLsb' 24 8))) ∧
      (w.extractLsb' 0 3 = 5 →
        decode w = .command (.readReg (w.extractLsb' 8 7) (w.extractLsb' 16 8) (w.extractLsb' 24 8))))

/-- The worked examples of rule R91, and words of 95_test_vectors.md section 3.1. -/
def Obligations.WorkedWords : Prop :=
  decode 0xA5005001 = .command (.writeByte 0x50 0x00 0xA5) ∧
  decode 0xA5FF5001 = .command (.writeByte 0x50 0xFF 0xA5) ∧
  decode 0x00033C02 = .command (.writeMulti 0x3C 0x03 0x00) ∧
  decode 0xAB105003 = .command (.writeReg 0x50 0x10 0xAB) ∧
  decode 0x00004804 = .command (.readByte 0x48 0x00 0x00) ∧
  decode 0x00105005 = .command (.readReg 0x50 0x10 0x00) ∧
  decode 0x00000000 = .illegal .noSuchOperation ∧
  decode 0x00005006 = .illegal .noSuchOperation ∧
  decode 0x00008001 = .illegal .reservedBits ∧
  decode 0x00005009 = .illegal .reservedBits

/-- Two words that differ in ignored fields only are the same command (rules R83, R87). -/
def Obligations.IgnoredFieldsSameCommand : Prop :=
  ∀ (w v : Word) (i : Instr), decode w = .command i →
    w &&& (match i with
      | .writeByte _ _ _ => 0xFF00FFFF
      | .writeMulti _ _ _ => 0x00FFFFFF
      | .writeReg _ _ _ => 0xFFFFFFFF
      | .readByte _ _ _ => 0x0000FFFF
      | .readReg _ _ _ => 0x00FFFFFF) =
    v &&& (match i with
      | .writeByte _ _ _ => 0xFF00FFFF
      | .writeMulti _ _ _ => 0x00FFFFFF
      | .writeReg _ _ _ => 0xFFFFFFFF
      | .readByte _ _ _ => 0x0000FFFF
      | .readReg _ _ _ => 0x00FFFFFF) →
    ∃ j, decode v = .command j ∧ j.canonical = i.canonical

/-- What an ignored field left in the latch changes nothing a busy command does, in any clock cycle: the next
state differs in that register only, and a stop is the same stop (rules R83, R87). -/
def Obligations.IgnoredFieldsNoEffect : Prop :=
  ∀ (s : State) (x y : Byte) (a : Addr) (r d : Byte), s.block.phase ≠ .idle →
    exec (.writeByte a r d) (s.withRl x) = mapNext (State.withRl x) (exec (.writeByte a r d) s) ∧
    exec (.writeMulti a r d) (s.withDat y) = mapNext (State.withDat y) (exec (.writeMulti a r d) s) ∧
    exec (.readByte a r d) ((s.withRl x).withDat y) =
      mapNext (fun t => (t.withRl x).withDat y) (exec (.readByte a r d) s) ∧
    exec (.readReg a r d) (s.withDat y) = mapNext (State.withDat y) (exec (.readReg a r d) s)

/-- The address byte is `{A[6:0], rw}`: rw in bit 0, A in bits 7..1, numerically `(A << 1) | rw`; and the byte
a completed Start loads to be sent has rw = 0 for a write, 1 for a read, where `READ_REG` writes first, its register
byte, and reads after its second Start (rule R58). -/
def Obligations.AddressByteLayout : Prop :=
  (∀ (a : Addr) (rw : Bool),
    (addressByte a rw).getLsbD 0 = rw ∧
    (∀ b : Nat, b < 7 → (addressByte a rw).getLsbD (b + 1) = a.getLsbD b) ∧
    (addressByte a rw).toNat = 2 * a.toNat + rw.toNat) ∧
  (∀ (i : Instr) (s : State), s.block.phase = .start → s.block.k = 7 → s.lastWaitCycle →
    ∃ t, exec i s = .next t ∧ t.block.phase = .addr ∧
      t.block.shreg = addressByte s.block.a (match i with
        | .writeByte _ _ _ => false
        | .writeMulti _ _ _ => false
        | .writeReg _ _ _ => false
        | .readByte _ _ _ => true
        | .readReg _ _ _ => false)) ∧
  (∀ (a : Addr) (r d : Byte) (s : State), s.block.phase = .rstart → s.block.k = 7 → s.lastWaitCycle →
    ∃ t, exec (.readReg a r d) s = .next t ∧ t.block.phase = .addr ∧ t.block.shreg = addressByte s.block.a true)

/-! ### Reset, and what a clock cycle is spent on -/

/-- Every register at reset, as the table of rule R43 lists it; the position is `IDLE`, 0. -/
def Obligations.ResetValues : Prop :=
  State.reset.block =
    { scl := true, sda := true, phase := .idle, k := 0, op := 0, a := 0, rl := 0, dat := 0, byteI := 0,
      rs := false, shreg := 0, ackf := false, err := false, ill := false, rspv := false, rxdata := 0,
      pollCnt := 0, hbCnt := 0 }

/-- With `rst_n` = 0 every register takes its reset value in any state, whatever else the cycle holds, no event
is emitted, and the ports show the reset values already in that cycle (rules R176, R190, R192). That the inputs
of the environment and `DELAY_UNITS` stay as they are is the model's (log entry 8), as is where in the cycle the registers and
the ports change (log entry 7). -/
def Obligations.ResetPin : Prop :=
  ∀ s : State, s.hostNow.rstN = false →
    step s = .next { block := State.reset.block, env := s.beginCycle.env, delay := s.delay } ∧
    s.event = none ∧ s.registers = State.reset.block

/-- The output ports. With `rst_n` = 1 they are the registers: `cmd_ready` is 1 in `IDLE` and 0 in every busy phase,
`rsp_valid` is `RSPV`, `rsp_err` `ERR`, `rsp_ill` `ILL`, `rsp_data` `RXDATA`, `scl_o` `SCL`, `sda_o` `SDA`; with
`rst_n` = 0 they show the reset values, both lines released (rules R21, R22, R40, R44, R147, R190; that they do so within
the reset cycle itself is DEDUCED, log entry 7). -/
def Obligations.PortsShowRegisters : Prop :=
  ∀ s : State,
    (s.hostNow.rstN = true →
      (s.cmdReady = true ↔ s.block.phase = .idle) ∧ (s.block.phase ≠ .idle → s.cmdReady = false) ∧
      s.rspValid = s.block.rspv ∧ s.rspErr = s.block.err ∧ s.rspIll = s.block.ill ∧ s.rspData = s.block.rxdata ∧
      s.sclO = s.block.scl ∧ s.sdaO = s.block.sda) ∧
    (s.hostNow.rstN = false →
      s.cmdReady = true ∧ s.rspValid = false ∧ s.rspErr = false ∧ s.rspIll = false ∧ s.rspData = 0 ∧
      s.sclO = true ∧ s.sdaO = true)

/-- In `IDLE` a legal word on the command port is decoded and run: the step is `exec` of it (rules R147, R44), on
the state in which the host's list has moved on by one cycle and its payload write has landed (the model's, log entries 3
and 6). -/
def Obligations.StepRunsPresented : Prop :=
  ∀ (s : State) (i : Instr), s.hostNow.rstN = true → s.block.phase = .idle → s.hostNow.cmdValid = true →
    decode s.hostNow.cmdWord = .command i → step s = exec i s.beginCycle

/-- While busy the step is `exec` of the command in the latch (rule R148), whatever stands on the command port. THE
MODEL'S CHOICE, log entry 6 (and 3): `exec` runs on the state in which the host's payload write of this same cycle has already
landed, so a byte `WRITE_MULTI` reads in this cycle is the new one. -/
def Obligations.StepRunsInFlight : Prop :=
  ∀ (s : State) (i : Instr), s.hostNow.rstN = true → s.block.phase ≠ .idle → s.block.command = some i →
    step s = exec i s.beginCycle

/-- A word placed on the command port by `withFetchWord` is what the very next step runs: the model's, log entry 13
(and 3 and 6 for the host's own cycle). -/
def Obligations.FetchWordRuns : Prop :=
  ∀ (s : State) (w : Nat) (i : Instr), decodeTableWord 32 w = some i →
    step (s.withFetchWord 32 w) = exec i (s.withFetchWord 32 w).beginCycle

/-- An illegal word presented in `IDLE`: `ILL <- 1`, `ERR <- 0`, `RSPV <- 1`, no event, every other register
unchanged; the next cycle's ports show the refusal (rule R177). The host's own cycle is used up beside it (the
model's, log entries 3 and 6). -/
def Obligations.IllegalWordRefused : Prop :=
  ∀ (s : State) (why : Illegal), s.hostNow.rstN = true → s.block.phase = .idle → s.hostNow.cmdValid = true →
    decode s.hostNow.cmdWord = .illegal why →
    s.event = none ∧
    ∃ t, step s = .next t ∧
      t = { s.beginCycle with block := { s.block with ill := true, err := false, rspv := true } } ∧
      (t.hostNow.rstN = true → t.rspValid = true ∧ t.rspIll = true ∧ t.rspErr = false ∧ t.cmdReady = true)

/-- In `IDLE` with no word presented nothing happens but the end of the response, `RSPV <- 0`
(rules R33, R150), apart from the host's own cycle (the model's, log entries 3 and 6). -/
def Obligations.IdleCycle : Prop :=
  ∀ s : State, s.hostNow.rstN = true → s.block.phase = .idle → s.hostNow.cmdValid = false →
    step s = .next { s.beginCycle with block := { s.block with rspv := false } } ∧ s.event = none

/-- While busy, the command port is not looked at: the step and the event are the same whatever it holds
(rules R68, R147, R194). Two runs that differ in it, compared; the host's list of coming cycles moves on in both (the
model's, log entry 3). -/
def Obligations.BusyIgnoresCommandPort : Prop :=
  ∀ (s : State) (valid : Bool) (w : Word), s.block.phase ≠ .idle →
    step (s.withPort valid w) = step s ∧ (s.withPort valid w).event = s.event

/-- Every command, presented in `IDLE`, is accepted: the latch takes its fields, `ERR`, `ILL`, `RSPV`, `BYTE_I`,
`RS`, `K` become 0, `PHASE` becomes `START`, everything else stays (rule R147). -/
def Obligations.AcceptanceCompletes : Prop :=
  ∀ (i : Instr) (s : State), s.block.phase = .idle →
    exec i s = .next { s with block := { s.block with
      op := i.op, a := i.addr, rl := i.regLen, dat := i.data, err := false, ill := false, byteI := 0, rs := false,
      k := 0, rspv := false, phase := .start } }

/-! ### The primitives, micro-op by micro-op -/

/-- A clock cycle of a wait that is not its last: `HB_CNT` counts, nothing else changes (rule R101). -/
def Obligations.WaitHolds : Prop :=
  ∀ (i : Instr) (s : State) (row : MicroRow), s.block.phase ≠ .idle → s.block.command = some i →
    s.block.row s.block.receives = some row → row.op = .wait → ¬ s.lastWaitCycle →
    exec i s = .next { s with block := { s.block with hbCnt := s.block.hbCnt + 1 } }

/-- One wait takes exactly `DELAY_UNITS` clock cycles from `HB_CNT` = 0 (rule R101): after n cycles of fewer only
`HB_CNT` has changed, to n; cycle number `DELAY_UNITS` completes the wait, with `HB_CNT` = 0 again: K moves on by one and nothing
else changes, or, where the wait ends its primitive, the cycle does what `exec` does in a wait's last cycle, which the
transitions of each command state. THE MODEL'S CHOICE, log entry 1: the wait's one event comes in its last cycle and in no
earlier one; the list of the host's cycles moves on by one a cycle (log entry 3). -/
def Obligations.WaitTakesDelayUnits : Prop :=
  ∀ (i : Instr) (s : State) (row : MicroRow), s.block.phase ≠ .idle → s.block.command = some i →
    s.block.row s.block.receives = some row → row.op = .wait → s.block.hbCnt = 0 →
    (∀ n : Nat, n < s.du → HostHolds n s →
      ∃ t, runFor n s = .next t ∧
        t = { s with block := { s.block with hbCnt := BitVec.ofNat 16 n }, env := s.env.advance n 0 } ∧
        traceFor n s = [] ∧
        (t.hostNow.rstN = true → t.event = if n + 1 = s.du then some .wait else none)) ∧
    (HostHolds s.du s → row.last = false →
      runFor s.du s = .next { s with
        block := { s.block with hbCnt := 0, k := s.block.k + 1 }, env := s.env.advance s.du 0 } ∧
      traceFor s.du s = [.wait]) ∧
    (HostHolds s.du s → ∀ t : State,
      exec i { s with block := { s.block with hbCnt := BitVec.ofNat 16 (s.du - 1) } } = .next t →
      t.block.hbCnt = 0 ∧ runFor s.du s = .next { t with env := s.env.advance s.du 0 } ∧
      traceFor s.du s = [.wait])

/-- Start, the first and the second, micro-op by micro-op: `cwDwCwd`, and the wait that ends it is in the
transitions (rule R110). -/
def Obligations.StartRows : Prop :=
  ∀ (i : Instr) (s : State), s.block.phase = .start ∨ s.block.phase = .rstart →
    (s.block.k = 0 → exec i s = .next { s with block := { s.block with scl := false, k := 1 } }) ∧
    (s.block.k = 2 → exec i s = .next { s with block := { s.block with sda := true, k := 3 } }) ∧
    (s.block.k = 4 → exec i s = .next { s with block := { s.block with scl := true, k := 5 } }) ∧
    (s.block.k = 6 → exec i s = .next { s with block := { s.block with sda := false, k := 7 } }) ∧
    (s.block.k = 1 ∨ s.block.k = 3 ∨ s.block.k = 5 → s.lastWaitCycle →
      exec i s = .next { s with block := { s.block with hbCnt := 0, k := s.block.k + 1 } })

/-- Stop, micro-op by micro-op: `cwdwCwD`, and the wait that ends it, with the response, is in
`StopResponds` (rule R111). -/
def Obligations.StopRows : Prop :=
  ∀ (i : Instr) (s : State), s.block.phase = .stop →
    (s.block.k = 0 → exec i s = .next { s with block := { s.block with scl := false, k := 1 } }) ∧
    (s.block.k = 2 → exec i s = .next { s with block := { s.block with sda := false, k := 3 } }) ∧
    (s.block.k = 4 → exec i s = .next { s with block := { s.block with scl := true, k := 5 } }) ∧
    (s.block.k = 6 → exec i s = .next { s with block := { s.block with sda := true, k := 7 } }) ∧
    (s.block.k = 1 ∨ s.block.k = 3 ∨ s.block.k = 5 → s.lastWaitCycle →
      exec i s = .next { s with block := { s.block with hbCnt := 0, k := s.block.k + 1 } })

/-- A SendByte's bit slots: in slot j the Data line takes bit 7 - j of `SHREG` while the Clock is low
(rules R57, R120, R130). -/
def Obligations.SendBitRows : Prop :=
  ∀ (i : Instr) (s : State) (j : Nat), s.block.command = some i → s.block.sending → j < 8 →
    (s.block.k.toNat = 7 * j →
      exec i s = .next { s with block := { s.block with scl := false, k := s.block.k + 1 } }) ∧
    (s.block.k.toNat = 7 * j + 2 →
      exec i s = .next { s with block := { s.block with
        sda := s.block.shreg.getLsbD (7 - j), k := s.block.k + 1 } }) ∧
    (s.block.k.toNat = 7 * j + 4 →
      exec i s = .next { s with block := { s.block with scl := true, k := s.block.k + 1 } }) ∧
    (s.block.k.toNat = 7 * j + 1 ∨ s.block.k.toNat = 7 * j + 3 ∨ s.block.k.toNat = 7 * j + 5 ∨
        s.block.k.toNat = 7 * j + 6 → s.lastWaitCycle →
      exec i s = .next { s with block := { s.block with hbCnt := 0, k := s.block.k + 1 } })

/-- A SendByte's acknowledgment slot up to the poll, and the first of the two waits after it
(rules R121, R123, R130). -/
def Obligations.AckSlotRows : Prop :=
  ∀ (i : Instr) (s : State), s.block.command = some i → s.block.sending →
    (s.block.k = 56 → exec i s = .next { s with block := { s.block with scl := false, k := 57 } }) ∧
    (s.block.k = 57 → exec i s = .next { s with block := { s.block with sda := true, k := 58 } }) ∧
    (s.block.k = 60 →
      exec i s = .next { s with block := { s.block with scl := true, pollCnt := 0, k := 61 } }) ∧
    (s.block.k = 58 ∨ s.block.k = 59 ∨ s.block.k = 62 → s.lastWaitCycle →
      exec i s = .next { s with block := { s.block with hbCnt := 0, k := s.block.k + 1 } })

/-- One sample of the acknowledgment poll: a low sample acknowledges, the last allowed high gives up and takes the
abort (`ERR <- 1`, Stop), any other high is counted (rules R122, R130 row 61, R173). -/
def Obligations.PollSample : Prop :=
  ∀ (i : Instr) (s : State), s.block.command = some i → s.block.sending → s.block.k = 61 →
    (s.env.dataLevel = false →
      exec i s = .next { s with block := { s.block with ackf := true, k := 62 }, env := s.env.takeSample }) ∧
    (s.env.dataLevel = true → s.block.pollCnt.toNat + 1 = 3 * s.du →
      exec i s = .next { s with
        block := { s.block with ackf := false, err := true, phase := .stop, k := 0 }, env := s.env.takeSample }) ∧
    (s.env.dataLevel = true → s.block.pollCnt.toNat + 1 ≠ 3 * s.du →
      exec i s = .next { s with
        block := { s.block with pollCnt := s.block.pollCnt + 1 }, env := s.env.takeSample })

/-- A ReceiveByte: the release clears `SHREG`; in slot j one sample, taken after the Clock has gone high, becomes
bit 7 - j of `SHREG` and no other bit changes; then the master's NotAcknowledged (rules R57, R125 to R127, R131). -/
def Obligations.ReceiveRows : Prop :=
  ∀ (i : Instr) (s : State) (j : Nat), s.block.command = some i → s.block.phase = .data →
    s.block.receives = true → j < 8 →
    (s.block.k = 0 → exec i s = .next { s with block := { s.block with sda := true, shreg := 0, k := 1 } }) ∧
    (s.block.k.toNat = 7 * j + 1 →
      exec i s = .next { s with block := { s.block with scl := false, k := s.block.k + 1 } }) ∧
    (s.block.k.toNat = 7 * j + 4 →
      exec i s = .next { s with block := { s.block with scl := true, k := s.block.k + 1 } }) ∧
    (s.block.k.toNat = 7 * j + 6 →
      ∃ v : Byte,
        (∀ b : Nat, b < 8 → v.getLsbD b = if b = 7 - j then s.env.dataLevel else s.block.shreg.getLsbD b) ∧
        exec i s = .next { s with
          block := { s.block with shreg := v, k := s.block.k + 1 }, env := s.env.takeSample }) ∧
    (s.block.k = 57 → exec i s = .next { s with block := { s.block with scl := false, k := 58 } }) ∧
    (s.block.k = 59 → exec i s = .next { s with block := { s.block with sda := true, k := 60 } }) ∧
    (s.block.k = 61 → exec i s = .next { s with block := { s.block with scl := true, k := 62 } }) ∧
    (s.block.k.toNat = 7 * j + 2 ∨ s.block.k.toNat = 7 * j + 3 ∨ s.block.k.toNat = 7 * j + 5 ∨
        s.block.k.toNat = 7 * j + 7 ∨ s.block.k = 58 ∨ s.block.k = 60 ∨ s.block.k = 62 → s.lastWaitCycle →
      exec i s = .next { s with block := { s.block with hbCnt := 0, k := s.block.k + 1 } })

/-! ### Transitions when a primitive completes (rule R149), command by command -/

/-- `WRITE_BYTE` in the cycle that completes a primitive (rules R141, R149). -/
def Obligations.WriteByteTransitions : Prop :=
  ∀ (a : Addr) (r d : Byte) (s : State), s.lastWaitCycle →
    (s.block.phase = .start → s.block.k = 7 →
      exec (.writeByte a r d) s = .next { s with block := { s.block with
        hbCnt := 0, k := 0, phase := .addr, shreg := addressByte s.block.a false } }) ∧
    (s.block.phase = .addr → s.block.k = 63 → s.block.ackf = true →
      exec (.writeByte a r d) s = .next { s with block := { s.block with
        hbCnt := 0, k := 0, phase := .data, shreg := s.block.dat } }) ∧
    (s.block.phase = .data → s.block.k = 63 → s.block.ackf = true →
      exec (.writeByte a r d) s = .next { s with block := { s.block with hbCnt := 0, k := 0, phase := .stop } })

/-- `WRITE_MULTI` in the cycle that completes a primitive: payload byte 0 after the address, unless n = 0; then
byte by byte in ascending order up to n - 1, each read from the payload memory in this very cycle
(rules R56, R142, R149). -/
def Obligations.WriteMultiTransitions : Prop :=
  ∀ (a : Addr) (n d : Byte) (s : State), s.lastWaitCycle →
    (s.block.phase = .start → s.block.k = 7 →
      exec (.writeMulti a n d) s = .next { s with block := { s.block with
        hbCnt := 0, k := 0, phase := .addr, shreg := addressByte s.block.a false } }) ∧
    (s.block.phase = .addr → s.block.k = 63 → s.block.ackf = true → s.block.rl = 0 →
      exec (.writeMulti a n d) s = .next { s with block := { s.block with hbCnt := 0, k := 0, phase := .stop } }) ∧
    (s.block.phase = .addr → s.block.k = 63 → s.block.ackf = true → s.block.rl ≠ 0 →
      exec (.writeMulti a n d) s = .next { s with block := { s.block with
        hbCnt := 0, k := 0, phase := .data, shreg := s.env.payload.read 0 } }) ∧
    (s.block.phase = .data → s.block.k = 63 → s.block.ackf = true →
        s.block.byteI.toNat + 1 < s.block.rl.toNat →
      exec (.writeMulti a n d) s = .next { s with block := { s.block with
        hbCnt := 0, k := 0, byteI := s.block.byteI + 1, shreg := s.env.payload.read (s.block.byteI + 1) } }) ∧
    (s.block.phase = .data → s.block.k = 63 → s.block.ackf = true →
        s.block.rl.toNat ≤ s.block.byteI.toNat + 1 →
      exec (.writeMulti a n d) s = .next { s with block := { s.block with hbCnt := 0, k := 0, phase := .stop } })

/-- `WRITE_REG` in the cycle that completes a primitive: the register byte, then the data byte
(rules R143, R149). -/
def Obligations.WriteRegTransitions : Prop :=
  ∀ (a : Addr) (r d : Byte) (s : State), s.lastWaitCycle →
    (s.block.phase = .start → s.block.k = 7 →
      exec (.writeReg a r d) s = .next { s with block := { s.block with
        hbCnt := 0, k := 0, phase := .addr, shreg := addressByte s.block.a false } }) ∧
    (s.block.phase = .addr → s.block.k = 63 → s.block.ackf = true →
      exec (.writeReg a r d) s = .next { s with block := { s.block with
        hbCnt := 0, k := 0, phase := .data, shreg := s.block.rl } }) ∧
    (s.block.phase = .data → s.block.k = 63 → s.block.ackf = true → s.block.byteI = 0 →
      exec (.writeReg a r d) s = .next { s with block := { s.block with
        hbCnt := 0, k := 0, byteI := 1, shreg := s.block.dat } }) ∧
    (s.block.phase = .data → s.block.k = 63 → s.block.ackf = true → s.block.byteI = 1 →
      exec (.writeReg a r d) s = .next { s with block := { s.block with hbCnt := 0, k := 0, phase := .stop } })

/-- `READ_BYTE` in the cycle that completes a primitive: `RXDATA <- SHREG` when the ReceiveByte completes
(rules R144, R149). -/
def Obligations.ReadByteTransitions : Prop :=
  ∀ (a : Addr) (r d : Byte) (s : State), s.lastWaitCycle →
    (s.block.phase = .start → s.block.k = 7 →
      exec (.readByte a r d) s = .next { s with block := { s.block with
        hbCnt := 0, k := 0, phase := .addr, shreg := addressByte s.block.a true } }) ∧
    (s.block.phase = .addr → s.block.k = 63 → s.block.ackf = true →
      exec (.readByte a r d) s = .next { s with block := { s.block with hbCnt := 0, k := 0, phase := .data } }) ∧
    (s.block.phase = .data → s.block.k = 63 →
      exec (.readByte a r d) s = .next { s with block := { s.block with
        hbCnt := 0, k := 0, phase := .stop, rxdata := s.block.shreg } })

/-- `READ_REG` in the cycle that completes a primitive: the second Start follows the register byte with no Stop
between, and `RXDATA <- SHREG` when the ReceiveByte completes (rules R145, R149). -/
def Obligations.ReadRegTransitions : Prop :=
  ∀ (a : Addr) (r d : Byte) (s : State), s.lastWaitCycle →
    (s.block.phase = .start → s.block.k = 7 →
      exec (.readReg a r d) s = .next { s with block := { s.block with
        hbCnt := 0, k := 0, phase := .addr, shreg := addressByte s.block.a false } }) ∧
    (s.block.phase = .rstart → s.block.k = 7 →
      exec (.readReg a r d) s = .next { s with block := { s.block with
        hbCnt := 0, k := 0, phase := .addr, rs := true, shreg := addressByte s.block.a true } }) ∧
    (s.block.phase = .addr → s.block.k = 63 → s.block.ackf = true → s.block.rs = false →
      exec (.readReg a r d) s = .next { s with block := { s.block with
        hbCnt := 0, k := 0, phase := .data, shreg := s.block.rl } }) ∧
    (s.block.phase = .addr → s.block.k = 63 → s.block.ackf = true → s.block.rs = true →
      exec (.readReg a r d) s = .next { s with block := { s.block with hbCnt := 0, k := 0, phase := .data } }) ∧
    (s.block.phase = .data → s.block.k = 63 → s.block.rs = false → s.block.ackf = true →
      exec (.readReg a r d) s = .next { s with block := { s.block with hbCnt := 0, k := 0, phase := .rstart } }) ∧
    (s.block.phase = .data → s.block.k = 63 → s.block.rs = true →
      exec (.readReg a r d) s = .next { s with block := { s.block with
        hbCnt := 0, k := 0, phase := .stop, rxdata := s.block.shreg } })

/-- Every command ends so: the last cycle of the Stop sets `RSPV` and returns to `IDLE`; `ERR`, `ILL`, `RXDATA`
stay; and the ports of the next cycle are the response (rules R111, R149, R150, R174). -/
def Obligations.StopResponds : Prop :=
  ∀ (i : Instr) (s : State), s.block.phase = .stop → s.block.k = 7 → s.lastWaitCycle →
    ∃ t, exec i s = .next t ∧
      t = { s with block := { s.block with hbCnt := 0, k := 0, phase := .idle, rspv := true } } ∧
      (t.hostNow.rstN = true →
        t.rspValid = true ∧ t.rspErr = s.block.err ∧ t.rspIll = s.block.ill ∧ t.rspData = s.block.rxdata ∧
        t.cmdReady = true)

/-! ### Frames -/

/-- What a write command leaves unchanged in any cycle: `RXDATA`, `DELAY_UNITS`, the host's coming cycles and
every byte of the payload memory always; while busy also the latch, `RS`, `ILL`; `ERR` but in an abort, `RSPV` but in the
response, `BYTE_I` but in `DATA`, `SHREG` but when a byte to send is loaded, `ACKF` and `POLL_CNT` but in the acknowledgment
slot, `HB_CNT` but in a wait, at most one line at a time (rules R26 to R30, R34 to R36, R39, R56). In `IDLE` the lines and the
working registers stay too. K and `PHASE`, the position, may change. -/
def Obligations.WritesFrame : Prop :=
  ∀ (i : Instr) (s t : State), i.op = 1 ∨ i.op = 2 ∨ i.op = 3 → exec i s = .next t →
    t.delay = s.delay ∧ t.env.host = s.env.host ∧ t.env.payload = s.env.payload ∧
    (∀ j : Byte, t.env.payload.read j = s.env.payload.read j) ∧
    t.block.rxdata = s.block.rxdata ∧
    (s.block.phase = .idle →
      t.env = s.env ∧ t.block.scl = s.block.scl ∧ t.block.sda = s.block.sda ∧ t.block.shreg = s.block.shreg ∧
      t.block.ackf = s.block.ackf ∧ t.block.pollCnt = s.block.pollCnt ∧ t.block.hbCnt = s.block.hbCnt) ∧
    (s.block.phase ≠ .idle →
      t.block.op = s.block.op ∧ t.block.a = s.block.a ∧ t.block.rl = s.block.rl ∧ t.block.dat = s.block.dat ∧
      t.block.rs = s.block.rs ∧ t.block.ill = s.block.ill ∧
      (t.block.err ≠ s.block.err → t.block.err = true ∧ t.block.phase = .stop ∧ t.block.ackf = false) ∧
      (t.block.rspv ≠ s.block.rspv → s.block.phase = .stop ∧ t.block.phase = .idle) ∧
      (t.block.byteI ≠ s.block.byteI → s.block.phase = .data ∧ s.block.k = 63 ∧ i.op ≠ 1) ∧
      (t.block.ackf ≠ s.block.ackf → (s.block.phase = .addr ∨ s.block.phase = .data) ∧ s.block.k = 61) ∧
      (t.block.pollCnt ≠ s.block.pollCnt →
        (s.block.phase = .addr ∨ s.block.phase = .data) ∧ (s.block.k = 60 ∨ s.block.k = 61)) ∧
      (t.block.shreg ≠ s.block.shreg →
        (s.block.phase = .start ∧ s.block.k = 7) ∨
        ((s.block.phase = .addr ∨ s.block.phase = .data) ∧ s.block.k = 63)) ∧
      (t.block.hbCnt ≠ s.block.hbCnt →
        ∃ row, s.block.row ((planOf i).receives s.block) = some row ∧ row.op = .wait) ∧
      (t.env = s.env ∨ t.env = s.env.takeSample) ∧
      (t.block.scl = s.block.scl ∨ t.block.sda = s.block.sda))

/-- What a read command leaves unchanged in any cycle: `BYTE_I` while busy and the payload memory always; `RXDATA`
but in the cycle that completes a ReceiveByte, when it takes `SHREG`; `RS` but when the second Start completes; `SHREG` but when
a byte to send is loaded or a byte is being received; the rest as for the write commands (rules R26 to R30, R34 to R36, R39, R56). -/
def Obligations.ReadsFrame : Prop :=
  ∀ (i : Instr) (s t : State), i.op = 4 ∨ i.op = 5 → exec i s = .next t →
    t.delay = s.delay ∧ t.env.host = s.env.host ∧ t.env.payload = s.env.payload ∧
    (∀ j : Byte, t.env.payload.read j = s.env.payload.read j) ∧
    (t.block.rxdata ≠ s.block.rxdata →
      s.block.phase = .data ∧ s.block.k = 63 ∧ t.block.phase = .stop ∧ t.block.rxdata = s.block.shreg) ∧
    (s.block.phase = .idle →
      t.env = s.env ∧ t.block.scl = s.block.scl ∧ t.block.sda = s.block.sda ∧ t.block.shreg = s.block.shreg ∧
      t.block.ackf = s.block.ackf ∧ t.block.pollCnt = s.block.pollCnt ∧ t.block.hbCnt = s.block.hbCnt) ∧
    (s.block.phase ≠ .idle →
      t.block.op = s.block.op ∧ t.block.a = s.block.a ∧ t.block.rl = s.block.rl ∧ t.block.dat = s.block.dat ∧
      t.block.byteI = s.block.byteI ∧ t.block.ill = s.block.ill ∧
      (t.block.rs ≠ s.block.rs → s.block.phase = .rstart ∧ t.block.rs = true ∧ i.op = 5) ∧
      (t.block.err ≠ s.block.err → t.block.err = true ∧ t.block.phase = .stop ∧ t.block.ackf = false) ∧
      (t.block.rspv ≠ s.block.rspv → s.block.phase = .stop ∧ t.block.phase = .idle) ∧
      (t.block.ackf ≠ s.block.ackf → (s.block.phase = .addr ∨ s.block.phase = .data) ∧ s.block.k = 61) ∧
      (t.block.pollCnt ≠ s.block.pollCnt →
        (s.block.phase = .addr ∨ s.block.phase = .data) ∧ (s.block.k = 60 ∨ s.block.k = 61)) ∧
      (t.block.shreg ≠ s.block.shreg →
        ((s.block.phase = .start ∨ s.block.phase = .rstart) ∧ s.block.k = 7) ∨
        (s.block.phase = .addr ∧ s.block.k = 63) ∨ (s.block.phase = .data ∧ (planOf i).receives s.block = true)) ∧
      (t.block.hbCnt ≠ s.block.hbCnt →
        ∃ row, s.block.row ((planOf i).receives s.block) = some row ∧ row.op = .wait) ∧
      (t.env = s.env ∨ t.env = s.env.takeSample) ∧
      (t.block.scl = s.block.scl ∨ t.block.sda = s.block.sda))

/-- A step's event is its line change: each line moves exactly as the event says, and with a wait, a sample or no
event, unless it is a reset, both lines stay (rules R10, R21, R22, R65). -/
def Obligations.EventIsLineChange : Prop :=
  ∀ s t : State, s.hostNow.rstN = true → step s = .next t →
    (t.block.scl, t.block.sda) =
      match s.event with
      | some .clockLow => (false, s.block.sda)
      | some .clockHigh => (true, s.block.sda)
      | some .dataLow => (s.block.scl, false)
      | some .dataHigh => (s.block.scl, true)
      | some .wait => (s.block.scl, s.block.sda)
      | some .sampleLow => (s.block.scl, s.block.sda)
      | some .sampleHigh => (s.block.scl, s.block.sda)
      | none => (s.block.scl, s.block.sda)

/-- What a step does to the inputs: the payload memory changes by the host's write only, since the block never writes
it (rule R56), and `DELAY_UNITS` never changes (rule R45). THE MODEL'S CHOICES: the host's cycle is used up (log entry 3); a
sample, and nothing else, uses up one level of the Data line (log entry 2); the payload memory survives a reset cycle too (log
entry 8). The premise is the canonical form of the payload memory, which `StepKeepsInv` keeps. -/
def Obligations.StepInputs : Prop :=
  ∀ s t : State, s.env.payload.wf = true → step s = .next t →
    t.delay = s.delay ∧ t.env.host = s.env.host.tail ∧
    (∀ j : Byte, t.env.payload.read j =
      match s.hostNow.plWrite with
      | some (i, v) => if j = i then v else s.env.payload.read j
      | none => s.env.payload.read j) ∧
    (if s.event = some .sampleLow ∨ s.event = some .sampleHigh then
        t.env.dataIn = s.env.dataIn.tail ∧ t.env.sampleNo = s.env.sampleNo + 1
      else t.env.dataIn = s.env.dataIn ∧ t.env.sampleNo = s.env.sampleNo)

/-- The payload memory is read only where `pl_addr` says: that byte, of an index below n, is what the next SendByte
sends; in every other cycle the step does not depend on the payload memory at all (rule R56). THE MODEL'S CHOICES: the byte
is read after the host's write of the same cycle (log entry 6), and `pl_addr` has no value in a cycle without a read (log
entry 16). -/
def Obligations.PayloadReads : Prop :=
  ∀ s : State, s.Inv →
    (∀ (j : Byte) (t : State), s.plAddr = some j → step s = .next t →
      s.hostNow.rstN = true ∧ s.block.op = 2 ∧ j.toNat < s.block.rl.toNat ∧ t.block.phase = .data ∧
      t.block.byteI = j ∧ t.block.shreg = s.beginCycle.env.payload.read j) ∧
    (s.plAddr = none → ∀ m : Memory,
      step (s.withPayload m) = mapNext (State.withPayload (s.hostNow.store m)) (step s))

/-- No command depends on `ERR`, `ILL` or `RXDATA`: with other values there a step has the same event and leaves
every other register, and the inputs, the same (rule R20). -/
def Obligations.ResultsAreNotRead : Prop :=
  ∀ (s : State) (e i : Bool) (x : Byte),
    (s.withResults e i x).event = s.event ∧
    ∀ t, step s = .next t →
      ∃ u, step (s.withResults e i x) = .next u ∧
        u.withResults t.block.err t.block.ill t.block.rxdata = t

/-! ### Invariants -/

/-- The machine's invariant holds at reset. -/
def Obligations.ResetInv : Prop := State.reset.Inv

/-- Every step keeps the invariant: the positions, flags, counters, the latch and the byte index stay within what
the rules allow, the lines are where the running primitive has put them, and the payload memory keeps its canonical form (rules R24, R25,
R27, R28, R31 to R33, R35, R36, R113, R171; U8). -/
def Obligations.StepKeepsInv : Prop :=
  ∀ s t : State, s.Inv → step s = .next t → t.Inv

/-- Under the invariant no step faults or refuses: every state a run reaches has a next state. -/
def Obligations.InvNeverStops : Prop :=
  ∀ s : State, s.Inv → ∃ t, step s = .next t

/-- At every sample the master has released Data (rule R53). -/
def Obligations.SampleFindsDataReleased : Prop :=
  ∀ s : State, s.Inv → s.event = some .sampleLow ∨ s.event = some .sampleHigh → s.block.sda = true

/-- Data changes while the Clock is high only in the seventh event of a Start, falling, and in the seventh event
of a Stop, rising; and those always do make their condition (rules R70, R110, R111, R113). -/
def Obligations.ConditionsOnlyInStartAndStop : Prop :=
  ∀ s t : State, s.Inv → s.hostNow.rstN = true → step s = .next t →
    ((s.block.scl = true ∧ s.block.sda = true ∧ t.block.sda = false) ↔
      ((s.block.phase = .start ∨ s.block.phase = .rstart) ∧ s.block.k = 6)) ∧
    ((s.block.scl = true ∧ s.block.sda = false ∧ t.block.sda = true) ↔
      (s.block.phase = .stop ∧ s.block.k = 6))

/-! ### The event level and whole commands -/

/-- `POLL_BOUND` is `3 * DELAY_UNITS`, at least 3 and at most 196605, which the 18 bits of `POLL_CNT` hold; it is the
number of samples a poll takes that no low level answers (rules R7, R102). -/
def Obligations.PollBoundRange : Prop :=
  ∀ d : DelayUnits, 1 ≤ delayUnits d ∧ delayUnits d ≤ 65535 ∧ pollBound (delayUnits d) = 3 * delayUnits d ∧
    3 ≤ pollBound (delayUnits d) ∧ pollBound (delayUnits d) ≤ 196605 ∧ pollBound (delayUnits d) < 2 ^ 18 ∧
    (∀ (smp : Nat → Level) (p : Nat), (∀ q : Nat, smp q = true) →
      (pollRun smp (pollBound (delayUnits d)) p).nextSample = p + 3 * delayUnits d)

/-- The acknowledgment poll: acknowledged exactly when one of the first `bound` samples reads low, with p - 1
letters H and one L where the p-th is the first low; otherwise `bound` letters H; never more than `bound` samples (rule R122). -/
def Obligations.PollOutcome : Prop :=
  ∀ (smp : Nat → Level) (bound p : Nat),
    (∀ q : Nat, q < bound → smp (p + q) = false → (∀ r : Nat, r < q → smp (p + r) = true) →
      pollRun smp bound p =
        { trace := List.replicate q .sampleHigh ++ [.sampleLow], acked := true, nextSample := p + q + 1 }) ∧
    ((∀ q : Nat, q < bound → smp (p + q) = true) →
      pollRun smp bound p =
        { trace := List.replicate bound .sampleHigh, acked := false, nextSample := p + bound }) ∧
    (pollRun smp bound p).trace.length ≤ bound

/-- The events of a SendByte: 63 + p when acknowledged at the p-th sample, 61 + `POLL_BOUND` when not (rule R124). -/
def Obligations.SendByteLength : Prop :=
  ∀ (smp : Nat → Level) (bound p : Nat) (v : Byte),
    (sendByte bound smp p v).trace.length =
      if (sendByte bound smp p v).acked then 63 + ((sendByte bound smp p v).nextSample - p) else 61 + bound

/-- For every byte the monitor of the master's side reads its bits from most to least significant, then the
released level (the document's P7; rules R57, R71, R120). -/
def Obligations.MonitorReadsByte : Prop :=
  ∀ (smp : Nat → Level) (bound p : Nat) (v : Byte),
    monitorOf (startTrace ++ (sendByte bound smp p v).trace) =
      [.start, .bit (v.getLsbD 7), .bit (v.getLsbD 6), .bit (v.getLsbD 5), .bit (v.getLsbD 4),
        .bit (v.getLsbD 3), .bit (v.getLsbD 2), .bit (v.getLsbD 1), .bit (v.getLsbD 0), .bit true]

/-- A received byte is its eight samples, the first one bit 7; always 64 events (rules R57, R126, R128). -/
def Obligations.ReceivedValue : Prop :=
  ∀ (smp : Nat → Level) (p : Nat),
    (∀ b : Nat, b < 8 → (receiveValue smp p).getLsbD b = smp (p + (7 - b))) ∧
    (receiveTrace smp p).length = 64

/-- Every command, in every environment: its trace begins with a Start and ends with a Stop; a monitor of the lines sees
in it one Stop condition, which comes last, and as many Start conditions as there are Starts, one, or two in a ReadReg that got as
far, the first of them before everything else; the tokens say the same; the lines end released; Error exactly when some byte
was not acknowledged, and then that byte is the last thing before the Stop (rules R70, R71, R140, R151, R173). -/
def Obligations.StopOnEveryPath : Prop :=
  ∀ (smp : Nat → Level) (pay : Byte → Byte) (bound p : Nat) (i : Instr),
    ∃ (middle : Trace) (toks : List Token) (seen : List Seen),
      (commandRun bound smp pay p i).trace = startTrace ++ middle ++ stopTrace ∧
      monitorOf (commandRun bound smp pay p i).trace = .start :: seen ++ [.stop] ∧
      seen.count .stop = 0 ∧ seen.count .start = toks.count .start ∧
      (commandRun bound smp pay p i).tokens = .start :: toks ++ [.stop] ∧
      .stop ∉ toks ∧
      (toks.count .start = 0 ∨ (toks.count .start = 1 ∧ i.op = 5)) ∧
      ((commandRun bound smp pay p i).ok = false ↔ ∃ v, .sent v false ∈ toks) ∧
      (∀ v, .sent v false ∈ toks → ∃ before, toks = before ++ [.sent v false] ∧ ∀ u, .sent u false ∉ before) ∧
      ((commandRun bound smp pay p i).trace.foldl Monitor.on Monitor.init).scl = true ∧
      ((commandRun bound smp pay p i).trace.foldl Monitor.on Monitor.init).sda = true

/-- A command's trace is the blocks of its tokens one after another, and nothing else: the token view groups the trace
(rule R12). So its Starts, Stops, SendBytes and ReceiveBytes are those the tokens name, in their order. -/
def Obligations.TraceIsItsTokens : Prop :=
  ∀ (smp : Nat → Level) (pay : Byte → Byte) (bound p : Nat) (i : Instr),
    ∃ blocks : List Trace,
      (commandRun bound smp pay p i).trace = blocks.flatten ∧
      List.Forall₂ (Token.Names bound) (commandRun bound smp pay p i).tokens blocks

/-- The tokens of each command when every byte is acknowledged, and the byte a read returns, that of its last eight
samples: the transactions of rules R141 to R145, `S T(2A,A) … P`. -/
def Obligations.TransactionsWhenOk : Prop :=
  ∀ (smp : Nat → Level) (pay : Byte → Byte) (bound p : Nat) (a : Addr) (x y : Byte),
    ((commandRun bound smp pay p (.writeByte a x y)).ok = true →
      (commandRun bound smp pay p (.writeByte a x y)).tokens =
        [.start, .sent (addressByte a false) true, .sent y true, .stop]) ∧
    ((commandRun bound smp pay p (.writeMulti a x y)).ok = true →
      (commandRun bound smp pay p (.writeMulti a x y)).tokens =
        [.start, .sent (addressByte a false) true] ++
          (List.range x.toNat).map (fun j => .sent (pay (BitVec.ofNat 8 j)) true) ++ [.stop]) ∧
    ((commandRun bound smp pay p (.writeReg a x y)).ok = true →
      (commandRun bound smp pay p (.writeReg a x y)).tokens =
        [.start, .sent (addressByte a false) true, .sent x true, .sent y true, .stop]) ∧
    ((commandRun bound smp pay p (.readByte a x y)).ok = true →
      ∃ v, v = receiveValue smp ((commandRun bound smp pay p (.readByte a x y)).nextSample - 8) ∧
        (commandRun bound smp pay p (.readByte a x y)).rx = some v ∧
        (commandRun bound smp pay p (.readByte a x y)).tokens =
          [.start, .sent (addressByte a true) true, .received v, .stop]) ∧
    ((commandRun bound smp pay p (.readReg a x y)).ok = true →
      ∃ v, v = receiveValue smp ((commandRun bound smp pay p (.readReg a x y)).nextSample - 8) ∧
        (commandRun bound smp pay p (.readReg a x y)).rx = some v ∧
        (commandRun bound smp pay p (.readReg a x y)).tokens =
          [.start, .sent (addressByte a false) true, .sent x true, .start, .sent (addressByte a true) true,
            .received v, .stop])

/-- A command in Error: every primitive before the failing byte ran, with every byte acknowledged; the failing byte is
the last thing before the Stop; no primitive after it runs, and no byte is received (rules R140, R173). -/
def Obligations.AbortAtFailingByte : Prop :=
  ∀ (smp : Nat → Level) (pay : Byte → Byte) (bound p : Nat) (i : Instr),
    (commandRun bound smp pay p i).ok = false →
      (commandRun bound smp pay p i).rx = none ∧
      ∃ (ran rest : List Prim) (v : Byte), commandBody pay i = ran ++ .send v :: rest ∧ .receive ∉ ran ∧
        (commandRun bound smp pay p i).tokens =
          ran.map (fun q => match q with
            | .start => .start
            | .send u => .sent u true
            | .receive => .stop) ++ [.sent v false, .stop]

/-- The length of a command in clock cycles: its trace when every poll ends at its first sample, and when the first
address byte is not acknowledged (rules R101, R203). -/
def Obligations.CommandCycles : Prop :=
  ∀ (smp : Nat → Level) (pay : Byte → Byte) (du p : Nat) (a : Addr) (x y : Byte), 1 ≤ du →
    (smp p = false → smp (p + 1) = false →
      traceCycles du (commandRun (pollBound du) smp pay p (.writeByte a x y)).trace = 64 + 80 * du) ∧
    ((∀ q : Nat, q ≤ x.toNat → smp (p + q) = false) →
      traceCycles du (commandRun (pollBound du) smp pay p (.writeMulti a x y)).trace =
        8 + 28 * (x.toNat + 1) + (8 + 36 * (x.toNat + 1)) * du) ∧
    (smp p = false → smp (p + 1) = false → smp (p + 2) = false →
      traceCycles du (commandRun (pollBound du) smp pay p (.writeReg a x y)).trace = 92 + 116 * du) ∧
    (smp p = false →
      traceCycles du (commandRun (pollBound du) smp pay p (.readByte a x y)).trace = 64 + 80 * du) ∧
    (smp p = false → smp (p + 1) = false → smp (p + 2) = false →
      traceCycles du (commandRun (pollBound du) smp pay p (.readReg a x y)).trace = 124 + 156 * du) ∧
    ((∀ q : Nat, q < 3 * du → smp (p + q) = true) → ∀ i : Instr,
      traceCycles du (commandRun (pollBound du) smp pay p i).trace = 35 + 45 * du)

/-- Every command ends: at most `16 + 256 * (63 + POLL_BOUND)` events whatever the environment answers
(rule R152). -/
def Obligations.EventBound : Prop :=
  ∀ (smp : Nat → Level) (pay : Byte → Byte) (bound p : Nat) (i : Instr), 3 ≤ bound →
    (commandRun bound smp pay p i).trace.length ≤ 16 + 256 * (63 + bound)

/-- The two descriptions agree: any command accepted in `IDLE`, with any answers of the Data line and any
`DELAY_UNITS`, runs to its response in exactly the clock cycles of its trace, emits exactly the trace of the pseudocode, and
ends in `IDLE` with the lines released, `RSPV` set, and `ERR` and `RXDATA` as the pseudocode gives them, provided the host
neither resets the block nor changes the payload meanwhile (rules R150, R151, R153, R192, R196, R203). The cycles are those of
D13 with a wait's event in its last cycle (log entry 1); that the lists of levels and of host cycles are used up so is the
model's (log entries 2 and 3). -/
def Obligations.CommandRunsToResponse : Prop :=
  ∀ (i : Instr) (s : State) (r : CommandRun) (n : Nat), s.block.phase = .idle → s.block.hbCnt = 0 →
    r = commandRun (pollBound s.du) s.env.samples s.env.payload.read 0 i →
    n = traceCycles s.du r.trace → HostHolds n s →
    ∃ s₁ t, exec i s = .next s₁ ∧ runFor n s₁ = .next t ∧ traceFor n s₁ = r.trace ∧
      t.env = s.env.advance n r.nextSample ∧ t.delay = s.delay ∧
      t.block.phase = .idle ∧ t.block.k = 0 ∧ t.block.hbCnt = 0 ∧
      t.block.scl = true ∧ t.block.sda = true ∧
      t.block.op = i.op ∧ t.block.a = i.addr ∧ t.block.rl = i.regLen ∧ t.block.dat = i.data ∧
      t.block.rspv = true ∧ t.block.ill = false ∧ t.block.err = !r.ok ∧
      t.block.rxdata = r.rx.getD s.block.rxdata
end

