-- ==== Sys2Proof/Laws/Decode.lean ====
section
/-! SUPPORT. The fields of an encoded word, and a word put together from its fields. -/

namespace Sys2Proof

/-- Each field of a command's word is the command's own, and the reserved fields are 0 (rule R81). -/
theorem encode_fields (i : Instr) :
    opField (encode i) = i.op ∧ z0Field (encode i) = 0 ∧ addrField (encode i) = i.addr ∧
    z1Field (encode i) = 0 ∧ regLenField (encode i) = i.regLen ∧ dataField (encode i) = i.data := by
  unfold opField z0Field addrField z1Field regLenField dataField encode
  refine ⟨?_, ?_, ?_, ?_, ?_, ?_⟩
  all_goals
    apply BitVec.eq_of_getLsbD_eq
    intro k hk
    simp only [BitVec.getLsbD_extractLsb', BitVec.getLsbD_append]
    interval_cases k <;> simp

/-- A word is its fields, side by side (rule R81). -/
theorem word_of_fields (w : Word) :
    dataField w ++ regLenField w ++ z1Field w ++ addrField w ++ z0Field w ++ opField w = w := by
  unfold opField z0Field addrField z1Field regLenField dataField
  apply BitVec.eq_of_getLsbD_eq
  intro k hk
  simp only [BitVec.getLsbD_extractLsb', BitVec.getLsbD_append]
  interval_cases k <;> simp

/-- What a legal word decodes to (rule R93). -/
theorem decode_command {w : Word} {i : Instr} (h : decode w = .command i) :
    z1Field w = 0 ∧ z0Field w = 0 ∧
    commandOf (opField w) (addrField w) (regLenField w) (dataField w) = some i := by
  unfold decode at h
  split at h
  · cases h
  · rename_i hz
    simp only [not_or, not_not] at hz
    split at h
    · rename_i j hj
      cases h
      exact ⟨hz.1, hz.2, hj⟩
    · cases h

/-- The fields that select a command are the command's. -/
theorem commandOf_fields {op : BitVec 3} {a : Addr} {rl dat : Byte} {i : Instr}
    (h : commandOf op a rl dat = some i) : op = i.op ∧ a = i.addr ∧ rl = i.regLen ∧ dat = i.data := by
  unfold commandOf at h
  repeat' split at h
  all_goals simp only [Option.some.injEq, reduceCtorEq] at h
  all_goals subst h; exact ⟨by assumption, rfl, rfl, rfl⟩

end Sys2Proof
end

