-- ==== Sys2Proof/Laws/EventLevel.lean ====
section
/-! SUPPORT. What the primitives of the event level can do, each said once: the acknowledgment poll, SendByte,
ReceiveByte. -/

namespace Sys2Proof.Machine

/-- A poll is some high samples and a low one, within the bound, or high samples up to the bound (rule R122). -/
theorem pollRun_cases (smp : Nat → Level) (bound p : Nat) :
    ((pollRun smp bound p).acked = true ∧ ∃ q, q < bound ∧
      (pollRun smp bound p).trace = List.replicate q .sampleHigh ++ [.sampleLow]) ∨
    ((pollRun smp bound p).acked = false ∧ (pollRun smp bound p).trace = List.replicate bound .sampleHigh) := by
  induction bound generalizing p with
  | zero => exact .inr ⟨rfl, rfl⟩
  | succ n ih =>
    unfold pollRun
    split
    · exact .inl ⟨rfl, 0, by omega, rfl⟩
    · rcases ih (p + 1) with ⟨h1, q, hq, h2⟩ | ⟨h1, h2⟩
      · exact .inl ⟨h1, q + 1, by omega, by simp [h2, List.replicate_succ]⟩
      · exact .inr ⟨h1, by simp [h2, List.replicate_succ]⟩

/-- The events of a SendByte are those its token names (rules R12, R124). -/
theorem sendByte_names (bound : Nat) (smp : Nat → Level) (p : Nat) (v : Byte) :
    Token.Names bound (.sent v (sendByte bound smp p v).acked) (sendByte bound smp p v).trace := by
  rcases pollRun_cases smp bound p with ⟨h1, q, hq, h2⟩ | ⟨h1, h2⟩
  · simp only [sendByte, h1, h2, Token.Names]
    exact ⟨q, hq, by simp⟩
  · simp [sendByte, h1, h2, Token.Names]

/-- Bits set one after another, each once, read back. -/
theorem withBit_all (x : Fin 8 → Level) (i : Fin 8) :
    bitOf (bitOrder.foldl (fun v j => withBit v j (x j)) 0) i = x i := by
  have key : ∀ x0 x1 x2 x3 x4 x5 x6 x7 : Level,
      let v := withBit (withBit (withBit (withBit (withBit (withBit (withBit (withBit 0 7 x7) 6 x6) 5 x5) 4 x4)
        3 x3) 2 x2) 1 x1) 0 x0
      bitOf v 0 = x0 ∧ bitOf v 1 = x1 ∧ bitOf v 2 = x2 ∧ bitOf v 3 = x3 ∧
      bitOf v 4 = x4 ∧ bitOf v 5 = x5 ∧ bitOf v 6 = x6 ∧ bitOf v 7 = x7 := by decide
  obtain ⟨h0, h1, h2, h3, h4, h5, h6, h7⟩ := key (x 0) (x 1) (x 2) (x 3) (x 4) (x 5) (x 6) (x 7)
  fin_cases i <;> assumption

/-- The bits of a received byte are its samples (rules R57, R126). -/
theorem receiveValue_bit (smp : Nat → Level) (p : Nat) (i : Fin 8) :
    bitOf (receiveValue smp p) i = receiveSample smp p i :=
  withBit_all (receiveSample smp p) i

/-- The events of a ReceiveByte are those its token names (rules R12, R128). -/
theorem receive_names (bound : Nat) (smp : Nat → Level) (p : Nat) :
    Token.Names bound (.received (receiveValue smp p)) (receiveTrace smp p) := by
  simp [Token.Names, receiveTrace, receiveValue_bit]

end Sys2Proof.Machine
end

