-- ==== Sys2Proof/Laws/State.lean ====
section
/-! SUPPORT. One lemma per register per update, true by rfl, so that no later proof unfolds a record update. -/

namespace Sys2Proof.Machine

@[simp] theorem Block.setClock_scl (l : Level) (b : Block) : (b.setClock l).scl = l := rfl
@[simp] theorem Block.setClock_sda (l : Level) (b : Block) : (b.setClock l).sda = b.sda := rfl
@[simp] theorem Block.setClock_phase (l : Level) (b : Block) : (b.setClock l).phase = b.phase := rfl
@[simp] theorem Block.setClock_k (l : Level) (b : Block) : (b.setClock l).k = b.k := rfl
@[simp] theorem Block.setClock_op (l : Level) (b : Block) : (b.setClock l).op = b.op := rfl
@[simp] theorem Block.setClock_a (l : Level) (b : Block) : (b.setClock l).a = b.a := rfl
@[simp] theorem Block.setClock_rl (l : Level) (b : Block) : (b.setClock l).rl = b.rl := rfl
@[simp] theorem Block.setClock_dat (l : Level) (b : Block) : (b.setClock l).dat = b.dat := rfl
@[simp] theorem Block.setClock_byteI (l : Level) (b : Block) : (b.setClock l).byteI = b.byteI := rfl
@[simp] theorem Block.setClock_rs (l : Level) (b : Block) : (b.setClock l).rs = b.rs := rfl
@[simp] theorem Block.setClock_shreg (l : Level) (b : Block) : (b.setClock l).shreg = b.shreg := rfl
@[simp] theorem Block.setClock_ackf (l : Level) (b : Block) : (b.setClock l).ackf = b.ackf := rfl
@[simp] theorem Block.setClock_err (l : Level) (b : Block) : (b.setClock l).err = b.err := rfl
@[simp] theorem Block.setClock_ill (l : Level) (b : Block) : (b.setClock l).ill = b.ill := rfl
@[simp] theorem Block.setClock_rspv (l : Level) (b : Block) : (b.setClock l).rspv = b.rspv := rfl
@[simp] theorem Block.setClock_rxdata (l : Level) (b : Block) : (b.setClock l).rxdata = b.rxdata := rfl
@[simp] theorem Block.setClock_pollCnt (l : Level) (b : Block) : (b.setClock l).pollCnt = b.pollCnt := rfl
@[simp] theorem Block.setClock_hbCnt (l : Level) (b : Block) : (b.setClock l).hbCnt = b.hbCnt := rfl

@[simp] theorem Block.setData_scl (l : Level) (b : Block) : (b.setData l).scl = b.scl := rfl
@[simp] theorem Block.setData_sda (l : Level) (b : Block) : (b.setData l).sda = l := rfl
@[simp] theorem Block.setData_phase (l : Level) (b : Block) : (b.setData l).phase = b.phase := rfl
@[simp] theorem Block.setData_k (l : Level) (b : Block) : (b.setData l).k = b.k := rfl
@[simp] theorem Block.setData_op (l : Level) (b : Block) : (b.setData l).op = b.op := rfl
@[simp] theorem Block.setData_a (l : Level) (b : Block) : (b.setData l).a = b.a := rfl
@[simp] theorem Block.setData_rl (l : Level) (b : Block) : (b.setData l).rl = b.rl := rfl
@[simp] theorem Block.setData_dat (l : Level) (b : Block) : (b.setData l).dat = b.dat := rfl
@[simp] theorem Block.setData_byteI (l : Level) (b : Block) : (b.setData l).byteI = b.byteI := rfl
@[simp] theorem Block.setData_rs (l : Level) (b : Block) : (b.setData l).rs = b.rs := rfl
@[simp] theorem Block.setData_shreg (l : Level) (b : Block) : (b.setData l).shreg = b.shreg := rfl
@[simp] theorem Block.setData_ackf (l : Level) (b : Block) : (b.setData l).ackf = b.ackf := rfl
@[simp] theorem Block.setData_err (l : Level) (b : Block) : (b.setData l).err = b.err := rfl
@[simp] theorem Block.setData_ill (l : Level) (b : Block) : (b.setData l).ill = b.ill := rfl
@[simp] theorem Block.setData_rspv (l : Level) (b : Block) : (b.setData l).rspv = b.rspv := rfl
@[simp] theorem Block.setData_rxdata (l : Level) (b : Block) : (b.setData l).rxdata = b.rxdata := rfl
@[simp] theorem Block.setData_pollCnt (l : Level) (b : Block) : (b.setData l).pollCnt = b.pollCnt := rfl
@[simp] theorem Block.setData_hbCnt (l : Level) (b : Block) : (b.setData l).hbCnt = b.hbCnt := rfl

@[simp] theorem Block.setError_scl (b : Block) : (b.setError).scl = b.scl := rfl
@[simp] theorem Block.setError_sda (b : Block) : (b.setError).sda = b.sda := rfl
@[simp] theorem Block.setError_phase (b : Block) : (b.setError).phase = b.phase := rfl
@[simp] theorem Block.setError_k (b : Block) : (b.setError).k = b.k := rfl
@[simp] theorem Block.setError_op (b : Block) : (b.setError).op = b.op := rfl
@[simp] theorem Block.setError_a (b : Block) : (b.setError).a = b.a := rfl
@[simp] theorem Block.setError_rl (b : Block) : (b.setError).rl = b.rl := rfl
@[simp] theorem Block.setError_dat (b : Block) : (b.setError).dat = b.dat := rfl
@[simp] theorem Block.setError_byteI (b : Block) : (b.setError).byteI = b.byteI := rfl
@[simp] theorem Block.setError_rs (b : Block) : (b.setError).rs = b.rs := rfl
@[simp] theorem Block.setError_shreg (b : Block) : (b.setError).shreg = b.shreg := rfl
@[simp] theorem Block.setError_ackf (b : Block) : (b.setError).ackf = b.ackf := rfl
@[simp] theorem Block.setError_err (b : Block) : (b.setError).err = true := rfl
@[simp] theorem Block.setError_ill (b : Block) : (b.setError).ill = b.ill := rfl
@[simp] theorem Block.setError_rspv (b : Block) : (b.setError).rspv = b.rspv := rfl
@[simp] theorem Block.setError_rxdata (b : Block) : (b.setError).rxdata = b.rxdata := rfl
@[simp] theorem Block.setError_pollCnt (b : Block) : (b.setError).pollCnt = b.pollCnt := rfl
@[simp] theorem Block.setError_hbCnt (b : Block) : (b.setError).hbCnt = b.hbCnt := rfl

@[simp] theorem Block.flagRefused_scl (b : Block) : (b.flagRefused).scl = b.scl := rfl
@[simp] theorem Block.flagRefused_sda (b : Block) : (b.flagRefused).sda = b.sda := rfl
@[simp] theorem Block.flagRefused_phase (b : Block) : (b.flagRefused).phase = b.phase := rfl
@[simp] theorem Block.flagRefused_k (b : Block) : (b.flagRefused).k = b.k := rfl
@[simp] theorem Block.flagRefused_op (b : Block) : (b.flagRefused).op = b.op := rfl
@[simp] theorem Block.flagRefused_a (b : Block) : (b.flagRefused).a = b.a := rfl
@[simp] theorem Block.flagRefused_rl (b : Block) : (b.flagRefused).rl = b.rl := rfl
@[simp] theorem Block.flagRefused_dat (b : Block) : (b.flagRefused).dat = b.dat := rfl
@[simp] theorem Block.flagRefused_byteI (b : Block) : (b.flagRefused).byteI = b.byteI := rfl
@[simp] theorem Block.flagRefused_rs (b : Block) : (b.flagRefused).rs = b.rs := rfl
@[simp] theorem Block.flagRefused_shreg (b : Block) : (b.flagRefused).shreg = b.shreg := rfl
@[simp] theorem Block.flagRefused_ackf (b : Block) : (b.flagRefused).ackf = b.ackf := rfl
@[simp] theorem Block.flagRefused_err (b : Block) : (b.flagRefused).err = false := rfl
@[simp] theorem Block.flagRefused_ill (b : Block) : (b.flagRefused).ill = true := rfl
@[simp] theorem Block.flagRefused_rspv (b : Block) : (b.flagRefused).rspv = true := rfl
@[simp] theorem Block.flagRefused_rxdata (b : Block) : (b.flagRefused).rxdata = b.rxdata := rfl
@[simp] theorem Block.flagRefused_pollCnt (b : Block) : (b.flagRefused).pollCnt = b.pollCnt := rfl
@[simp] theorem Block.flagRefused_hbCnt (b : Block) : (b.flagRefused).hbCnt = b.hbCnt := rfl

@[simp] theorem Block.flagAccepted_scl (b : Block) : (b.flagAccepted).scl = b.scl := rfl
@[simp] theorem Block.flagAccepted_sda (b : Block) : (b.flagAccepted).sda = b.sda := rfl
@[simp] theorem Block.flagAccepted_phase (b : Block) : (b.flagAccepted).phase = b.phase := rfl
@[simp] theorem Block.flagAccepted_k (b : Block) : (b.flagAccepted).k = b.k := rfl
@[simp] theorem Block.flagAccepted_op (b : Block) : (b.flagAccepted).op = b.op := rfl
@[simp] theorem Block.flagAccepted_a (b : Block) : (b.flagAccepted).a = b.a := rfl
@[simp] theorem Block.flagAccepted_rl (b : Block) : (b.flagAccepted).rl = b.rl := rfl
@[simp] theorem Block.flagAccepted_dat (b : Block) : (b.flagAccepted).dat = b.dat := rfl
@[simp] theorem Block.flagAccepted_byteI (b : Block) : (b.flagAccepted).byteI = b.byteI := rfl
@[simp] theorem Block.flagAccepted_rs (b : Block) : (b.flagAccepted).rs = b.rs := rfl
@[simp] theorem Block.flagAccepted_shreg (b : Block) : (b.flagAccepted).shreg = b.shreg := rfl
@[simp] theorem Block.flagAccepted_ackf (b : Block) : (b.flagAccepted).ackf = b.ackf := rfl
@[simp] theorem Block.flagAccepted_err (b : Block) : (b.flagAccepted).err = false := rfl
@[simp] theorem Block.flagAccepted_ill (b : Block) : (b.flagAccepted).ill = false := rfl
@[simp] theorem Block.flagAccepted_rspv (b : Block) : (b.flagAccepted).rspv = false := rfl
@[simp] theorem Block.flagAccepted_rxdata (b : Block) : (b.flagAccepted).rxdata = b.rxdata := rfl
@[simp] theorem Block.flagAccepted_pollCnt (b : Block) : (b.flagAccepted).pollCnt = b.pollCnt := rfl
@[simp] theorem Block.flagAccepted_hbCnt (b : Block) : (b.flagAccepted).hbCnt = b.hbCnt := rfl

@[simp] theorem Block.accept_scl (i : Instr) (b : Block) : (b.accept i).scl = b.scl := rfl
@[simp] theorem Block.accept_sda (i : Instr) (b : Block) : (b.accept i).sda = b.sda := rfl
@[simp] theorem Block.accept_phase (i : Instr) (b : Block) : (b.accept i).phase = .start := rfl
@[simp] theorem Block.accept_k (i : Instr) (b : Block) : (b.accept i).k = 0 := rfl
@[simp] theorem Block.accept_op (i : Instr) (b : Block) : (b.accept i).op = i.op := rfl
@[simp] theorem Block.accept_a (i : Instr) (b : Block) : (b.accept i).a = i.addr := rfl
@[simp] theorem Block.accept_rl (i : Instr) (b : Block) : (b.accept i).rl = i.regLen := rfl
@[simp] theorem Block.accept_dat (i : Instr) (b : Block) : (b.accept i).dat = i.data := rfl
@[simp] theorem Block.accept_byteI (i : Instr) (b : Block) : (b.accept i).byteI = 0 := rfl
@[simp] theorem Block.accept_rs (i : Instr) (b : Block) : (b.accept i).rs = false := rfl
@[simp] theorem Block.accept_shreg (i : Instr) (b : Block) : (b.accept i).shreg = b.shreg := rfl
@[simp] theorem Block.accept_ackf (i : Instr) (b : Block) : (b.accept i).ackf = b.ackf := rfl
@[simp] theorem Block.accept_err (i : Instr) (b : Block) : (b.accept i).err = false := rfl
@[simp] theorem Block.accept_ill (i : Instr) (b : Block) : (b.accept i).ill = false := rfl
@[simp] theorem Block.accept_rspv (i : Instr) (b : Block) : (b.accept i).rspv = false := rfl
@[simp] theorem Block.accept_rxdata (i : Instr) (b : Block) : (b.accept i).rxdata = b.rxdata := rfl
@[simp] theorem Block.accept_pollCnt (i : Instr) (b : Block) : (b.accept i).pollCnt = b.pollCnt := rfl
@[simp] theorem Block.accept_hbCnt (i : Instr) (b : Block) : (b.accept i).hbCnt = b.hbCnt := rfl

@[simp] theorem Block.refuse_scl (b : Block) : (b.refuse).scl = b.scl := rfl
@[simp] theorem Block.refuse_sda (b : Block) : (b.refuse).sda = b.sda := rfl
@[simp] theorem Block.refuse_phase (b : Block) : (b.refuse).phase = b.phase := rfl
@[simp] theorem Block.refuse_k (b : Block) : (b.refuse).k = b.k := rfl
@[simp] theorem Block.refuse_op (b : Block) : (b.refuse).op = b.op := rfl
@[simp] theorem Block.refuse_a (b : Block) : (b.refuse).a = b.a := rfl
@[simp] theorem Block.refuse_rl (b : Block) : (b.refuse).rl = b.rl := rfl
@[simp] theorem Block.refuse_dat (b : Block) : (b.refuse).dat = b.dat := rfl
@[simp] theorem Block.refuse_byteI (b : Block) : (b.refuse).byteI = b.byteI := rfl
@[simp] theorem Block.refuse_rs (b : Block) : (b.refuse).rs = b.rs := rfl
@[simp] theorem Block.refuse_shreg (b : Block) : (b.refuse).shreg = b.shreg := rfl
@[simp] theorem Block.refuse_ackf (b : Block) : (b.refuse).ackf = b.ackf := rfl
@[simp] theorem Block.refuse_err (b : Block) : (b.refuse).err = false := rfl
@[simp] theorem Block.refuse_ill (b : Block) : (b.refuse).ill = true := rfl
@[simp] theorem Block.refuse_rspv (b : Block) : (b.refuse).rspv = true := rfl
@[simp] theorem Block.refuse_rxdata (b : Block) : (b.refuse).rxdata = b.rxdata := rfl
@[simp] theorem Block.refuse_pollCnt (b : Block) : (b.refuse).pollCnt = b.pollCnt := rfl
@[simp] theorem Block.refuse_hbCnt (b : Block) : (b.refuse).hbCnt = b.hbCnt := rfl

@[simp] theorem Block.idleCycle_scl (b : Block) : (b.idleCycle).scl = b.scl := rfl
@[simp] theorem Block.idleCycle_sda (b : Block) : (b.idleCycle).sda = b.sda := rfl
@[simp] theorem Block.idleCycle_phase (b : Block) : (b.idleCycle).phase = b.phase := rfl
@[simp] theorem Block.idleCycle_k (b : Block) : (b.idleCycle).k = b.k := rfl
@[simp] theorem Block.idleCycle_op (b : Block) : (b.idleCycle).op = b.op := rfl
@[simp] theorem Block.idleCycle_a (b : Block) : (b.idleCycle).a = b.a := rfl
@[simp] theorem Block.idleCycle_rl (b : Block) : (b.idleCycle).rl = b.rl := rfl
@[simp] theorem Block.idleCycle_dat (b : Block) : (b.idleCycle).dat = b.dat := rfl
@[simp] theorem Block.idleCycle_byteI (b : Block) : (b.idleCycle).byteI = b.byteI := rfl
@[simp] theorem Block.idleCycle_rs (b : Block) : (b.idleCycle).rs = b.rs := rfl
@[simp] theorem Block.idleCycle_shreg (b : Block) : (b.idleCycle).shreg = b.shreg := rfl
@[simp] theorem Block.idleCycle_ackf (b : Block) : (b.idleCycle).ackf = b.ackf := rfl
@[simp] theorem Block.idleCycle_err (b : Block) : (b.idleCycle).err = b.err := rfl
@[simp] theorem Block.idleCycle_ill (b : Block) : (b.idleCycle).ill = b.ill := rfl
@[simp] theorem Block.idleCycle_rspv (b : Block) : (b.idleCycle).rspv = false := rfl
@[simp] theorem Block.idleCycle_rxdata (b : Block) : (b.idleCycle).rxdata = b.rxdata := rfl
@[simp] theorem Block.idleCycle_pollCnt (b : Block) : (b.idleCycle).pollCnt = b.pollCnt := rfl
@[simp] theorem Block.idleCycle_hbCnt (b : Block) : (b.idleCycle).hbCnt = b.hbCnt := rfl

@[simp] theorem Block.enterAddr_scl (rw : Bool) (b : Block) : (b.enterAddr rw).scl = b.scl := rfl
@[simp] theorem Block.enterAddr_sda (rw : Bool) (b : Block) : (b.enterAddr rw).sda = b.sda := rfl
@[simp] theorem Block.enterAddr_phase (rw : Bool) (b : Block) : (b.enterAddr rw).phase = .addr := rfl
@[simp] theorem Block.enterAddr_k (rw : Bool) (b : Block) : (b.enterAddr rw).k = b.k := rfl
@[simp] theorem Block.enterAddr_op (rw : Bool) (b : Block) : (b.enterAddr rw).op = b.op := rfl
@[simp] theorem Block.enterAddr_a (rw : Bool) (b : Block) : (b.enterAddr rw).a = b.a := rfl
@[simp] theorem Block.enterAddr_rl (rw : Bool) (b : Block) : (b.enterAddr rw).rl = b.rl := rfl
@[simp] theorem Block.enterAddr_dat (rw : Bool) (b : Block) : (b.enterAddr rw).dat = b.dat := rfl
@[simp] theorem Block.enterAddr_byteI (rw : Bool) (b : Block) : (b.enterAddr rw).byteI = b.byteI := rfl
@[simp] theorem Block.enterAddr_rs (rw : Bool) (b : Block) : (b.enterAddr rw).rs = b.rs := rfl
@[simp] theorem Block.enterAddr_shreg (rw : Bool) (b : Block) : (b.enterAddr rw).shreg = addressByte b.a rw := rfl
@[simp] theorem Block.enterAddr_ackf (rw : Bool) (b : Block) : (b.enterAddr rw).ackf = b.ackf := rfl
@[simp] theorem Block.enterAddr_err (rw : Bool) (b : Block) : (b.enterAddr rw).err = b.err := rfl
@[simp] theorem Block.enterAddr_ill (rw : Bool) (b : Block) : (b.enterAddr rw).ill = b.ill := rfl
@[simp] theorem Block.enterAddr_rspv (rw : Bool) (b : Block) : (b.enterAddr rw).rspv = b.rspv := rfl
@[simp] theorem Block.enterAddr_rxdata (rw : Bool) (b : Block) : (b.enterAddr rw).rxdata = b.rxdata := rfl
@[simp] theorem Block.enterAddr_pollCnt (rw : Bool) (b : Block) : (b.enterAddr rw).pollCnt = b.pollCnt := rfl
@[simp] theorem Block.enterAddr_hbCnt (rw : Bool) (b : Block) : (b.enterAddr rw).hbCnt = b.hbCnt := rfl

@[simp] theorem Block.enterSecondAddr_scl (b : Block) : (b.enterSecondAddr).scl = b.scl := rfl
@[simp] theorem Block.enterSecondAddr_sda (b : Block) : (b.enterSecondAddr).sda = b.sda := rfl
@[simp] theorem Block.enterSecondAddr_phase (b : Block) : (b.enterSecondAddr).phase = .addr := rfl
@[simp] theorem Block.enterSecondAddr_k (b : Block) : (b.enterSecondAddr).k = b.k := rfl
@[simp] theorem Block.enterSecondAddr_op (b : Block) : (b.enterSecondAddr).op = b.op := rfl
@[simp] theorem Block.enterSecondAddr_a (b : Block) : (b.enterSecondAddr).a = b.a := rfl
@[simp] theorem Block.enterSecondAddr_rl (b : Block) : (b.enterSecondAddr).rl = b.rl := rfl
@[simp] theorem Block.enterSecondAddr_dat (b : Block) : (b.enterSecondAddr).dat = b.dat := rfl
@[simp] theorem Block.enterSecondAddr_byteI (b : Block) : (b.enterSecondAddr).byteI = b.byteI := rfl
@[simp] theorem Block.enterSecondAddr_rs (b : Block) : (b.enterSecondAddr).rs = true := rfl
@[simp] theorem Block.enterSecondAddr_shreg (b : Block) : (b.enterSecondAddr).shreg = addressByte b.a true := rfl
@[simp] theorem Block.enterSecondAddr_ackf (b : Block) : (b.enterSecondAddr).ackf = b.ackf := rfl
@[simp] theorem Block.enterSecondAddr_err (b : Block) : (b.enterSecondAddr).err = b.err := rfl
@[simp] theorem Block.enterSecondAddr_ill (b : Block) : (b.enterSecondAddr).ill = b.ill := rfl
@[simp] theorem Block.enterSecondAddr_rspv (b : Block) : (b.enterSecondAddr).rspv = b.rspv := rfl
@[simp] theorem Block.enterSecondAddr_rxdata (b : Block) : (b.enterSecondAddr).rxdata = b.rxdata := rfl
@[simp] theorem Block.enterSecondAddr_pollCnt (b : Block) : (b.enterSecondAddr).pollCnt = b.pollCnt := rfl
@[simp] theorem Block.enterSecondAddr_hbCnt (b : Block) : (b.enterSecondAddr).hbCnt = b.hbCnt := rfl

@[simp] theorem Block.enterSend_scl (v : Byte) (b : Block) : (b.enterSend v).scl = b.scl := rfl
@[simp] theorem Block.enterSend_sda (v : Byte) (b : Block) : (b.enterSend v).sda = b.sda := rfl
@[simp] theorem Block.enterSend_phase (v : Byte) (b : Block) : (b.enterSend v).phase = .data := rfl
@[simp] theorem Block.enterSend_k (v : Byte) (b : Block) : (b.enterSend v).k = b.k := rfl
@[simp] theorem Block.enterSend_op (v : Byte) (b : Block) : (b.enterSend v).op = b.op := rfl
@[simp] theorem Block.enterSend_a (v : Byte) (b : Block) : (b.enterSend v).a = b.a := rfl
@[simp] theorem Block.enterSend_rl (v : Byte) (b : Block) : (b.enterSend v).rl = b.rl := rfl
@[simp] theorem Block.enterSend_dat (v : Byte) (b : Block) : (b.enterSend v).dat = b.dat := rfl
@[simp] theorem Block.enterSend_byteI (v : Byte) (b : Block) : (b.enterSend v).byteI = b.byteI := rfl
@[simp] theorem Block.enterSend_rs (v : Byte) (b : Block) : (b.enterSend v).rs = b.rs := rfl
@[simp] theorem Block.enterSend_shreg (v : Byte) (b : Block) : (b.enterSend v).shreg = v := rfl
@[simp] theorem Block.enterSend_ackf (v : Byte) (b : Block) : (b.enterSend v).ackf = b.ackf := rfl
@[simp] theorem Block.enterSend_err (v : Byte) (b : Block) : (b.enterSend v).err = b.err := rfl
@[simp] theorem Block.enterSend_ill (v : Byte) (b : Block) : (b.enterSend v).ill = b.ill := rfl
@[simp] theorem Block.enterSend_rspv (v : Byte) (b : Block) : (b.enterSend v).rspv = b.rspv := rfl
@[simp] theorem Block.enterSend_rxdata (v : Byte) (b : Block) : (b.enterSend v).rxdata = b.rxdata := rfl
@[simp] theorem Block.enterSend_pollCnt (v : Byte) (b : Block) : (b.enterSend v).pollCnt = b.pollCnt := rfl
@[simp] theorem Block.enterSend_hbCnt (v : Byte) (b : Block) : (b.enterSend v).hbCnt = b.hbCnt := rfl

@[simp] theorem Block.enterSendAt_scl (j v : Byte) (b : Block) : (b.enterSendAt j v).scl = b.scl := rfl
@[simp] theorem Block.enterSendAt_sda (j v : Byte) (b : Block) : (b.enterSendAt j v).sda = b.sda := rfl
@[simp] theorem Block.enterSendAt_phase (j v : Byte) (b : Block) : (b.enterSendAt j v).phase = .data := rfl
@[simp] theorem Block.enterSendAt_k (j v : Byte) (b : Block) : (b.enterSendAt j v).k = b.k := rfl
@[simp] theorem Block.enterSendAt_op (j v : Byte) (b : Block) : (b.enterSendAt j v).op = b.op := rfl
@[simp] theorem Block.enterSendAt_a (j v : Byte) (b : Block) : (b.enterSendAt j v).a = b.a := rfl
@[simp] theorem Block.enterSendAt_rl (j v : Byte) (b : Block) : (b.enterSendAt j v).rl = b.rl := rfl
@[simp] theorem Block.enterSendAt_dat (j v : Byte) (b : Block) : (b.enterSendAt j v).dat = b.dat := rfl
@[simp] theorem Block.enterSendAt_byteI (j v : Byte) (b : Block) : (b.enterSendAt j v).byteI = j := rfl
@[simp] theorem Block.enterSendAt_rs (j v : Byte) (b : Block) : (b.enterSendAt j v).rs = b.rs := rfl
@[simp] theorem Block.enterSendAt_shreg (j v : Byte) (b : Block) : (b.enterSendAt j v).shreg = v := rfl
@[simp] theorem Block.enterSendAt_ackf (j v : Byte) (b : Block) : (b.enterSendAt j v).ackf = b.ackf := rfl
@[simp] theorem Block.enterSendAt_err (j v : Byte) (b : Block) : (b.enterSendAt j v).err = b.err := rfl
@[simp] theorem Block.enterSendAt_ill (j v : Byte) (b : Block) : (b.enterSendAt j v).ill = b.ill := rfl
@[simp] theorem Block.enterSendAt_rspv (j v : Byte) (b : Block) : (b.enterSendAt j v).rspv = b.rspv := rfl
@[simp] theorem Block.enterSendAt_rxdata (j v : Byte) (b : Block) : (b.enterSendAt j v).rxdata = b.rxdata := rfl
@[simp] theorem Block.enterSendAt_pollCnt (j v : Byte) (b : Block) : (b.enterSendAt j v).pollCnt = b.pollCnt := rfl
@[simp] theorem Block.enterSendAt_hbCnt (j v : Byte) (b : Block) : (b.enterSendAt j v).hbCnt = b.hbCnt := rfl

@[simp] theorem Block.enterReceive_scl (b : Block) : (b.enterReceive).scl = b.scl := rfl
@[simp] theorem Block.enterReceive_sda (b : Block) : (b.enterReceive).sda = b.sda := rfl
@[simp] theorem Block.enterReceive_phase (b : Block) : (b.enterReceive).phase = .data := rfl
@[simp] theorem Block.enterReceive_k (b : Block) : (b.enterReceive).k = b.k := rfl
@[simp] theorem Block.enterReceive_op (b : Block) : (b.enterReceive).op = b.op := rfl
@[simp] theorem Block.enterReceive_a (b : Block) : (b.enterReceive).a = b.a := rfl
@[simp] theorem Block.enterReceive_rl (b : Block) : (b.enterReceive).rl = b.rl := rfl
@[simp] theorem Block.enterReceive_dat (b : Block) : (b.enterReceive).dat = b.dat := rfl
@[simp] theorem Block.enterReceive_byteI (b : Block) : (b.enterReceive).byteI = b.byteI := rfl
@[simp] theorem Block.enterReceive_rs (b : Block) : (b.enterReceive).rs = b.rs := rfl
@[simp] theorem Block.enterReceive_shreg (b : Block) : (b.enterReceive).shreg = b.shreg := rfl
@[simp] theorem Block.enterReceive_ackf (b : Block) : (b.enterReceive).ackf = b.ackf := rfl
@[simp] theorem Block.enterReceive_err (b : Block) : (b.enterReceive).err = b.err := rfl
@[simp] theorem Block.enterReceive_ill (b : Block) : (b.enterReceive).ill = b.ill := rfl
@[simp] theorem Block.enterReceive_rspv (b : Block) : (b.enterReceive).rspv = b.rspv := rfl
@[simp] theorem Block.enterReceive_rxdata (b : Block) : (b.enterReceive).rxdata = b.rxdata := rfl
@[simp] theorem Block.enterReceive_pollCnt (b : Block) : (b.enterReceive).pollCnt = b.pollCnt := rfl
@[simp] theorem Block.enterReceive_hbCnt (b : Block) : (b.enterReceive).hbCnt = b.hbCnt := rfl

@[simp] theorem Block.enterRstart_scl (b : Block) : (b.enterRstart).scl = b.scl := rfl
@[simp] theorem Block.enterRstart_sda (b : Block) : (b.enterRstart).sda = b.sda := rfl
@[simp] theorem Block.enterRstart_phase (b : Block) : (b.enterRstart).phase = .rstart := rfl
@[simp] theorem Block.enterRstart_k (b : Block) : (b.enterRstart).k = b.k := rfl
@[simp] theorem Block.enterRstart_op (b : Block) : (b.enterRstart).op = b.op := rfl
@[simp] theorem Block.enterRstart_a (b : Block) : (b.enterRstart).a = b.a := rfl
@[simp] theorem Block.enterRstart_rl (b : Block) : (b.enterRstart).rl = b.rl := rfl
@[simp] theorem Block.enterRstart_dat (b : Block) : (b.enterRstart).dat = b.dat := rfl
@[simp] theorem Block.enterRstart_byteI (b : Block) : (b.enterRstart).byteI = b.byteI := rfl
@[simp] theorem Block.enterRstart_rs (b : Block) : (b.enterRstart).rs = b.rs := rfl
@[simp] theorem Block.enterRstart_shreg (b : Block) : (b.enterRstart).shreg = b.shreg := rfl
@[simp] theorem Block.enterRstart_ackf (b : Block) : (b.enterRstart).ackf = b.ackf := rfl
@[simp] theorem Block.enterRstart_err (b : Block) : (b.enterRstart).err = b.err := rfl
@[simp] theorem Block.enterRstart_ill (b : Block) : (b.enterRstart).ill = b.ill := rfl
@[simp] theorem Block.enterRstart_rspv (b : Block) : (b.enterRstart).rspv = b.rspv := rfl
@[simp] theorem Block.enterRstart_rxdata (b : Block) : (b.enterRstart).rxdata = b.rxdata := rfl
@[simp] theorem Block.enterRstart_pollCnt (b : Block) : (b.enterRstart).pollCnt = b.pollCnt := rfl
@[simp] theorem Block.enterRstart_hbCnt (b : Block) : (b.enterRstart).hbCnt = b.hbCnt := rfl

@[simp] theorem Block.enterStop_scl (b : Block) : (b.enterStop).scl = b.scl := rfl
@[simp] theorem Block.enterStop_sda (b : Block) : (b.enterStop).sda = b.sda := rfl
@[simp] theorem Block.enterStop_phase (b : Block) : (b.enterStop).phase = .stop := rfl
@[simp] theorem Block.enterStop_k (b : Block) : (b.enterStop).k = b.k := rfl
@[simp] theorem Block.enterStop_op (b : Block) : (b.enterStop).op = b.op := rfl
@[simp] theorem Block.enterStop_a (b : Block) : (b.enterStop).a = b.a := rfl
@[simp] theorem Block.enterStop_rl (b : Block) : (b.enterStop).rl = b.rl := rfl
@[simp] theorem Block.enterStop_dat (b : Block) : (b.enterStop).dat = b.dat := rfl
@[simp] theorem Block.enterStop_byteI (b : Block) : (b.enterStop).byteI = b.byteI := rfl
@[simp] theorem Block.enterStop_rs (b : Block) : (b.enterStop).rs = b.rs := rfl
@[simp] theorem Block.enterStop_shreg (b : Block) : (b.enterStop).shreg = b.shreg := rfl
@[simp] theorem Block.enterStop_ackf (b : Block) : (b.enterStop).ackf = b.ackf := rfl
@[simp] theorem Block.enterStop_err (b : Block) : (b.enterStop).err = b.err := rfl
@[simp] theorem Block.enterStop_ill (b : Block) : (b.enterStop).ill = b.ill := rfl
@[simp] theorem Block.enterStop_rspv (b : Block) : (b.enterStop).rspv = b.rspv := rfl
@[simp] theorem Block.enterStop_rxdata (b : Block) : (b.enterStop).rxdata = b.rxdata := rfl
@[simp] theorem Block.enterStop_pollCnt (b : Block) : (b.enterStop).pollCnt = b.pollCnt := rfl
@[simp] theorem Block.enterStop_hbCnt (b : Block) : (b.enterStop).hbCnt = b.hbCnt := rfl

@[simp] theorem Block.enterStopReceived_scl (b : Block) : (b.enterStopReceived).scl = b.scl := rfl
@[simp] theorem Block.enterStopReceived_sda (b : Block) : (b.enterStopReceived).sda = b.sda := rfl
@[simp] theorem Block.enterStopReceived_phase (b : Block) : (b.enterStopReceived).phase = .stop := rfl
@[simp] theorem Block.enterStopReceived_k (b : Block) : (b.enterStopReceived).k = b.k := rfl
@[simp] theorem Block.enterStopReceived_op (b : Block) : (b.enterStopReceived).op = b.op := rfl
@[simp] theorem Block.enterStopReceived_a (b : Block) : (b.enterStopReceived).a = b.a := rfl
@[simp] theorem Block.enterStopReceived_rl (b : Block) : (b.enterStopReceived).rl = b.rl := rfl
@[simp] theorem Block.enterStopReceived_dat (b : Block) : (b.enterStopReceived).dat = b.dat := rfl
@[simp] theorem Block.enterStopReceived_byteI (b : Block) : (b.enterStopReceived).byteI = b.byteI := rfl
@[simp] theorem Block.enterStopReceived_rs (b : Block) : (b.enterStopReceived).rs = b.rs := rfl
@[simp] theorem Block.enterStopReceived_shreg (b : Block) : (b.enterStopReceived).shreg = b.shreg := rfl
@[simp] theorem Block.enterStopReceived_ackf (b : Block) : (b.enterStopReceived).ackf = b.ackf := rfl
@[simp] theorem Block.enterStopReceived_err (b : Block) : (b.enterStopReceived).err = b.err := rfl
@[simp] theorem Block.enterStopReceived_ill (b : Block) : (b.enterStopReceived).ill = b.ill := rfl
@[simp] theorem Block.enterStopReceived_rspv (b : Block) : (b.enterStopReceived).rspv = b.rspv := rfl
@[simp] theorem Block.enterStopReceived_rxdata (b : Block) : (b.enterStopReceived).rxdata = b.shreg := rfl
@[simp] theorem Block.enterStopReceived_pollCnt (b : Block) : (b.enterStopReceived).pollCnt = b.pollCnt := rfl
@[simp] theorem Block.enterStopReceived_hbCnt (b : Block) : (b.enterStopReceived).hbCnt = b.hbCnt := rfl

@[simp] theorem Block.abort_scl (b : Block) : (b.abort).scl = b.scl := rfl
@[simp] theorem Block.abort_sda (b : Block) : (b.abort).sda = b.sda := rfl
@[simp] theorem Block.abort_phase (b : Block) : (b.abort).phase = .stop := rfl
@[simp] theorem Block.abort_k (b : Block) : (b.abort).k = b.k := rfl
@[simp] theorem Block.abort_op (b : Block) : (b.abort).op = b.op := rfl
@[simp] theorem Block.abort_a (b : Block) : (b.abort).a = b.a := rfl
@[simp] theorem Block.abort_rl (b : Block) : (b.abort).rl = b.rl := rfl
@[simp] theorem Block.abort_dat (b : Block) : (b.abort).dat = b.dat := rfl
@[simp] theorem Block.abort_byteI (b : Block) : (b.abort).byteI = b.byteI := rfl
@[simp] theorem Block.abort_rs (b : Block) : (b.abort).rs = b.rs := rfl
@[simp] theorem Block.abort_shreg (b : Block) : (b.abort).shreg = b.shreg := rfl
@[simp] theorem Block.abort_ackf (b : Block) : (b.abort).ackf = b.ackf := rfl
@[simp] theorem Block.abort_err (b : Block) : (b.abort).err = true := rfl
@[simp] theorem Block.abort_ill (b : Block) : (b.abort).ill = b.ill := rfl
@[simp] theorem Block.abort_rspv (b : Block) : (b.abort).rspv = b.rspv := rfl
@[simp] theorem Block.abort_rxdata (b : Block) : (b.abort).rxdata = b.rxdata := rfl
@[simp] theorem Block.abort_pollCnt (b : Block) : (b.abort).pollCnt = b.pollCnt := rfl
@[simp] theorem Block.abort_hbCnt (b : Block) : (b.abort).hbCnt = b.hbCnt := rfl

@[simp] theorem Block.respond_scl (b : Block) : (b.respond).scl = b.scl := rfl
@[simp] theorem Block.respond_sda (b : Block) : (b.respond).sda = b.sda := rfl
@[simp] theorem Block.respond_phase (b : Block) : (b.respond).phase = .idle := rfl
@[simp] theorem Block.respond_k (b : Block) : (b.respond).k = b.k := rfl
@[simp] theorem Block.respond_op (b : Block) : (b.respond).op = b.op := rfl
@[simp] theorem Block.respond_a (b : Block) : (b.respond).a = b.a := rfl
@[simp] theorem Block.respond_rl (b : Block) : (b.respond).rl = b.rl := rfl
@[simp] theorem Block.respond_dat (b : Block) : (b.respond).dat = b.dat := rfl
@[simp] theorem Block.respond_byteI (b : Block) : (b.respond).byteI = b.byteI := rfl
@[simp] theorem Block.respond_rs (b : Block) : (b.respond).rs = b.rs := rfl
@[simp] theorem Block.respond_shreg (b : Block) : (b.respond).shreg = b.shreg := rfl
@[simp] theorem Block.respond_ackf (b : Block) : (b.respond).ackf = b.ackf := rfl
@[simp] theorem Block.respond_err (b : Block) : (b.respond).err = b.err := rfl
@[simp] theorem Block.respond_ill (b : Block) : (b.respond).ill = b.ill := rfl
@[simp] theorem Block.respond_rspv (b : Block) : (b.respond).rspv = true := rfl
@[simp] theorem Block.respond_rxdata (b : Block) : (b.respond).rxdata = b.rxdata := rfl
@[simp] theorem Block.respond_pollCnt (b : Block) : (b.respond).pollCnt = b.pollCnt := rfl
@[simp] theorem Block.respond_hbCnt (b : Block) : (b.respond).hbCnt = b.hbCnt := rfl

@[simp] theorem Block.withAckf_scl (x : Bool) (b : Block) : (b.withAckf x).scl = b.scl := rfl
@[simp] theorem Block.withAckf_sda (x : Bool) (b : Block) : (b.withAckf x).sda = b.sda := rfl
@[simp] theorem Block.withAckf_phase (x : Bool) (b : Block) : (b.withAckf x).phase = b.phase := rfl
@[simp] theorem Block.withAckf_k (x : Bool) (b : Block) : (b.withAckf x).k = b.k := rfl
@[simp] theorem Block.withAckf_op (x : Bool) (b : Block) : (b.withAckf x).op = b.op := rfl
@[simp] theorem Block.withAckf_a (x : Bool) (b : Block) : (b.withAckf x).a = b.a := rfl
@[simp] theorem Block.withAckf_rl (x : Bool) (b : Block) : (b.withAckf x).rl = b.rl := rfl
@[simp] theorem Block.withAckf_dat (x : Bool) (b : Block) : (b.withAckf x).dat = b.dat := rfl
@[simp] theorem Block.withAckf_byteI (x : Bool) (b : Block) : (b.withAckf x).byteI = b.byteI := rfl
@[simp] theorem Block.withAckf_rs (x : Bool) (b : Block) : (b.withAckf x).rs = b.rs := rfl
@[simp] theorem Block.withAckf_shreg (x : Bool) (b : Block) : (b.withAckf x).shreg = b.shreg := rfl
@[simp] theorem Block.withAckf_ackf (x : Bool) (b : Block) : (b.withAckf x).ackf = x := rfl
@[simp] theorem Block.withAckf_err (x : Bool) (b : Block) : (b.withAckf x).err = b.err := rfl
@[simp] theorem Block.withAckf_ill (x : Bool) (b : Block) : (b.withAckf x).ill = b.ill := rfl
@[simp] theorem Block.withAckf_rspv (x : Bool) (b : Block) : (b.withAckf x).rspv = b.rspv := rfl
@[simp] theorem Block.withAckf_rxdata (x : Bool) (b : Block) : (b.withAckf x).rxdata = b.rxdata := rfl
@[simp] theorem Block.withAckf_pollCnt (x : Bool) (b : Block) : (b.withAckf x).pollCnt = b.pollCnt := rfl
@[simp] theorem Block.withAckf_hbCnt (x : Bool) (b : Block) : (b.withAckf x).hbCnt = b.hbCnt := rfl

@[simp] theorem Block.withPollCnt_scl (n : BitVec 18) (b : Block) : (b.withPollCnt n).scl = b.scl := rfl
@[simp] theorem Block.withPollCnt_sda (n : BitVec 18) (b : Block) : (b.withPollCnt n).sda = b.sda := rfl
@[simp] theorem Block.withPollCnt_phase (n : BitVec 18) (b : Block) : (b.withPollCnt n).phase = b.phase := rfl
@[simp] theorem Block.withPollCnt_k (n : BitVec 18) (b : Block) : (b.withPollCnt n).k = b.k := rfl
@[simp] theorem Block.withPollCnt_op (n : BitVec 18) (b : Block) : (b.withPollCnt n).op = b.op := rfl
@[simp] theorem Block.withPollCnt_a (n : BitVec 18) (b : Block) : (b.withPollCnt n).a = b.a := rfl
@[simp] theorem Block.withPollCnt_rl (n : BitVec 18) (b : Block) : (b.withPollCnt n).rl = b.rl := rfl
@[simp] theorem Block.withPollCnt_dat (n : BitVec 18) (b : Block) : (b.withPollCnt n).dat = b.dat := rfl
@[simp] theorem Block.withPollCnt_byteI (n : BitVec 18) (b : Block) : (b.withPollCnt n).byteI = b.byteI := rfl
@[simp] theorem Block.withPollCnt_rs (n : BitVec 18) (b : Block) : (b.withPollCnt n).rs = b.rs := rfl
@[simp] theorem Block.withPollCnt_shreg (n : BitVec 18) (b : Block) : (b.withPollCnt n).shreg = b.shreg := rfl
@[simp] theorem Block.withPollCnt_ackf (n : BitVec 18) (b : Block) : (b.withPollCnt n).ackf = b.ackf := rfl
@[simp] theorem Block.withPollCnt_err (n : BitVec 18) (b : Block) : (b.withPollCnt n).err = b.err := rfl
@[simp] theorem Block.withPollCnt_ill (n : BitVec 18) (b : Block) : (b.withPollCnt n).ill = b.ill := rfl
@[simp] theorem Block.withPollCnt_rspv (n : BitVec 18) (b : Block) : (b.withPollCnt n).rspv = b.rspv := rfl
@[simp] theorem Block.withPollCnt_rxdata (n : BitVec 18) (b : Block) : (b.withPollCnt n).rxdata = b.rxdata := rfl
@[simp] theorem Block.withPollCnt_pollCnt (n : BitVec 18) (b : Block) : (b.withPollCnt n).pollCnt = n := rfl
@[simp] theorem Block.withPollCnt_hbCnt (n : BitVec 18) (b : Block) : (b.withPollCnt n).hbCnt = b.hbCnt := rfl

@[simp] theorem Block.withHbCnt_scl (n : BitVec 16) (b : Block) : (b.withHbCnt n).scl = b.scl := rfl
@[simp] theorem Block.withHbCnt_sda (n : BitVec 16) (b : Block) : (b.withHbCnt n).sda = b.sda := rfl
@[simp] theorem Block.withHbCnt_phase (n : BitVec 16) (b : Block) : (b.withHbCnt n).phase = b.phase := rfl
@[simp] theorem Block.withHbCnt_k (n : BitVec 16) (b : Block) : (b.withHbCnt n).k = b.k := rfl
@[simp] theorem Block.withHbCnt_op (n : BitVec 16) (b : Block) : (b.withHbCnt n).op = b.op := rfl
@[simp] theorem Block.withHbCnt_a (n : BitVec 16) (b : Block) : (b.withHbCnt n).a = b.a := rfl
@[simp] theorem Block.withHbCnt_rl (n : BitVec 16) (b : Block) : (b.withHbCnt n).rl = b.rl := rfl
@[simp] theorem Block.withHbCnt_dat (n : BitVec 16) (b : Block) : (b.withHbCnt n).dat = b.dat := rfl
@[simp] theorem Block.withHbCnt_byteI (n : BitVec 16) (b : Block) : (b.withHbCnt n).byteI = b.byteI := rfl
@[simp] theorem Block.withHbCnt_rs (n : BitVec 16) (b : Block) : (b.withHbCnt n).rs = b.rs := rfl
@[simp] theorem Block.withHbCnt_shreg (n : BitVec 16) (b : Block) : (b.withHbCnt n).shreg = b.shreg := rfl
@[simp] theorem Block.withHbCnt_ackf (n : BitVec 16) (b : Block) : (b.withHbCnt n).ackf = b.ackf := rfl
@[simp] theorem Block.withHbCnt_err (n : BitVec 16) (b : Block) : (b.withHbCnt n).err = b.err := rfl
@[simp] theorem Block.withHbCnt_ill (n : BitVec 16) (b : Block) : (b.withHbCnt n).ill = b.ill := rfl
@[simp] theorem Block.withHbCnt_rspv (n : BitVec 16) (b : Block) : (b.withHbCnt n).rspv = b.rspv := rfl
@[simp] theorem Block.withHbCnt_rxdata (n : BitVec 16) (b : Block) : (b.withHbCnt n).rxdata = b.rxdata := rfl
@[simp] theorem Block.withHbCnt_pollCnt (n : BitVec 16) (b : Block) : (b.withHbCnt n).pollCnt = b.pollCnt := rfl
@[simp] theorem Block.withHbCnt_hbCnt (n : BitVec 16) (b : Block) : (b.withHbCnt n).hbCnt = n := rfl

@[simp] theorem Block.withShreg_scl (v : Byte) (b : Block) : (b.withShreg v).scl = b.scl := rfl
@[simp] theorem Block.withShreg_sda (v : Byte) (b : Block) : (b.withShreg v).sda = b.sda := rfl
@[simp] theorem Block.withShreg_phase (v : Byte) (b : Block) : (b.withShreg v).phase = b.phase := rfl
@[simp] theorem Block.withShreg_k (v : Byte) (b : Block) : (b.withShreg v).k = b.k := rfl
@[simp] theorem Block.withShreg_op (v : Byte) (b : Block) : (b.withShreg v).op = b.op := rfl
@[simp] theorem Block.withShreg_a (v : Byte) (b : Block) : (b.withShreg v).a = b.a := rfl
@[simp] theorem Block.withShreg_rl (v : Byte) (b : Block) : (b.withShreg v).rl = b.rl := rfl
@[simp] theorem Block.withShreg_dat (v : Byte) (b : Block) : (b.withShreg v).dat = b.dat := rfl
@[simp] theorem Block.withShreg_byteI (v : Byte) (b : Block) : (b.withShreg v).byteI = b.byteI := rfl
@[simp] theorem Block.withShreg_rs (v : Byte) (b : Block) : (b.withShreg v).rs = b.rs := rfl
@[simp] theorem Block.withShreg_shreg (v : Byte) (b : Block) : (b.withShreg v).shreg = v := rfl
@[simp] theorem Block.withShreg_ackf (v : Byte) (b : Block) : (b.withShreg v).ackf = b.ackf := rfl
@[simp] theorem Block.withShreg_err (v : Byte) (b : Block) : (b.withShreg v).err = b.err := rfl
@[simp] theorem Block.withShreg_ill (v : Byte) (b : Block) : (b.withShreg v).ill = b.ill := rfl
@[simp] theorem Block.withShreg_rspv (v : Byte) (b : Block) : (b.withShreg v).rspv = b.rspv := rfl
@[simp] theorem Block.withShreg_rxdata (v : Byte) (b : Block) : (b.withShreg v).rxdata = b.rxdata := rfl
@[simp] theorem Block.withShreg_pollCnt (v : Byte) (b : Block) : (b.withShreg v).pollCnt = b.pollCnt := rfl
@[simp] theorem Block.withShreg_hbCnt (v : Byte) (b : Block) : (b.withShreg v).hbCnt = b.hbCnt := rfl

@[simp] theorem Block.withK_scl (k : BitVec 6) (b : Block) : (b.withK k).scl = b.scl := rfl
@[simp] theorem Block.withK_sda (k : BitVec 6) (b : Block) : (b.withK k).sda = b.sda := rfl
@[simp] theorem Block.withK_phase (k : BitVec 6) (b : Block) : (b.withK k).phase = b.phase := rfl
@[simp] theorem Block.withK_k (k : BitVec 6) (b : Block) : (b.withK k).k = k := rfl
@[simp] theorem Block.withK_op (k : BitVec 6) (b : Block) : (b.withK k).op = b.op := rfl
@[simp] theorem Block.withK_a (k : BitVec 6) (b : Block) : (b.withK k).a = b.a := rfl
@[simp] theorem Block.withK_rl (k : BitVec 6) (b : Block) : (b.withK k).rl = b.rl := rfl
@[simp] theorem Block.withK_dat (k : BitVec 6) (b : Block) : (b.withK k).dat = b.dat := rfl
@[simp] theorem Block.withK_byteI (k : BitVec 6) (b : Block) : (b.withK k).byteI = b.byteI := rfl
@[simp] theorem Block.withK_rs (k : BitVec 6) (b : Block) : (b.withK k).rs = b.rs := rfl
@[simp] theorem Block.withK_shreg (k : BitVec 6) (b : Block) : (b.withK k).shreg = b.shreg := rfl
@[simp] theorem Block.withK_ackf (k : BitVec 6) (b : Block) : (b.withK k).ackf = b.ackf := rfl
@[simp] theorem Block.withK_err (k : BitVec 6) (b : Block) : (b.withK k).err = b.err := rfl
@[simp] theorem Block.withK_ill (k : BitVec 6) (b : Block) : (b.withK k).ill = b.ill := rfl
@[simp] theorem Block.withK_rspv (k : BitVec 6) (b : Block) : (b.withK k).rspv = b.rspv := rfl
@[simp] theorem Block.withK_rxdata (k : BitVec 6) (b : Block) : (b.withK k).rxdata = b.rxdata := rfl
@[simp] theorem Block.withK_pollCnt (k : BitVec 6) (b : Block) : (b.withK k).pollCnt = b.pollCnt := rfl
@[simp] theorem Block.withK_hbCnt (k : BitVec 6) (b : Block) : (b.withK k).hbCnt = b.hbCnt := rfl

@[simp] theorem Env.takeSample_dataIn (e : Env) : (e.takeSample).dataIn = e.dataIn.tail := rfl
@[simp] theorem Env.takeSample_sampleNo (e : Env) : (e.takeSample).sampleNo = e.sampleNo + 1 := rfl
@[simp] theorem Env.takeSample_host (e : Env) : (e.takeSample).host = e.host := rfl
@[simp] theorem Env.takeSample_payload (e : Env) : (e.takeSample).payload = e.payload := rfl

@[simp] theorem State.beginCycle_block (s : State) : s.beginCycle.block = s.block := rfl
@[simp] theorem State.beginCycle_delay (s : State) : s.beginCycle.delay = s.delay := rfl
@[simp] theorem State.beginCycle_env_dataIn (s : State) : s.beginCycle.env.dataIn = s.env.dataIn := rfl
@[simp] theorem State.beginCycle_env_sampleNo (s : State) : s.beginCycle.env.sampleNo = s.env.sampleNo := rfl
@[simp] theorem State.beginCycle_env_host (s : State) : s.beginCycle.env.host = s.env.host.tail := rfl
@[simp] theorem State.beginCycle_env_payload (s : State) : s.beginCycle.env.payload = s.hostNow.store s.env.payload := rfl
@[simp] theorem State.beginCycle_dataLevel (s : State) : s.beginCycle.env.dataLevel = s.env.dataLevel := rfl
@[simp] theorem State.beginCycle_du (s : State) : s.beginCycle.du = s.du := rfl

@[simp] theorem State.resetBlock_block (s : State) : s.resetBlock.block = Block.reset := rfl
@[simp] theorem State.resetBlock_env (s : State) : s.resetBlock.env = s.env := rfl
@[simp] theorem State.resetBlock_delay (s : State) : s.resetBlock.delay = s.delay := rfl

end Sys2Proof.Machine
end

