-- ==== Sys2Proof/Laws/Micro.lean ====
section
/-! SUPPORT. What the shared operations of a command can do, said once: acceptance in `IDLE`, one row of a
micro-op table while busy. -/

namespace Sys2Proof.Machine

/-- In `IDLE` every command is accepted. -/
theorem exec_idle (i : Instr) {s : State} (h : s.block.phase = .idle) :
    exec i s = .next { s with block := s.block.accept i } := by
  cases i <;>
    simp [exec, execWriteByte, execWriteMulti, execWriteReg, execReadByte, execReadReg, commandStep, h]

/-- While busy every command runs its micro-step. -/
theorem exec_busy (i : Instr) {s : State} (h : s.block.phase ≠ .idle) :
    exec i s = microStep (planOf i) s := by
  cases i <;>
    simp [exec, execWriteByte, execWriteMulti, execWriteReg, execReadByte, execReadReg, commandStep, h, planOf]

/-- The command in the latch has the latch's fields. -/
theorem Block.command_fields {b : Block} {i : Instr} (h : b.command = some i) :
    b.op = i.op ∧ b.a = i.addr ∧ b.rl = i.regLen ∧ b.dat = i.data :=
  commandOf_fields h

/-- The latch holds the command it was given. -/
theorem Block.accept_command (i : Instr) (b : Block) : (b.accept i).command = some i := by
  cases i <;> simp [Block.command, commandOf, Instr.op, Instr.addr, Instr.regLen, Instr.data]

/-- Whether `DATA` receives is the same read from the latch (rule R146) and from the command. -/
theorem planOf_receives {b : Block} {i : Instr} (h : b.command = some i) :
    (planOf i).receives b = b.receives := by
  have hop := (Block.command_fields h).1
  cases i <;>
    simp [planOf, writeBytePlan, writeMultiPlan, writeRegPlan, readBytePlan, readRegPlan, Block.receives, hop,
      Instr.op]

/-- A micro-step on a known row. -/
theorem microStep_row {p : Plan} {s : State} {row : MicroRow}
    (h : s.block.row (p.receives s.block) = some row) :
    microStep p s =
      match p.rowStep s.du s.env.dataLevel s.pay row s.block with
      | none => .fault .noTransition
      | some b => .next { s with block := b, env := row.useEnv s.env } := by
  unfold microStep
  rw [h] <;> rfl

/-- What a micro-step can do: it runs the row of the position. -/
theorem microStep_next {p : Plan} {s t : State} (h : microStep p s = .next t) :
    ∃ row b, s.block.row (p.receives s.block) = some row ∧
      p.rowStep s.du s.env.dataLevel s.pay row s.block = some b ∧
      t = { s with block := b, env := row.useEnv s.env } := by
  unfold microStep at h
  split at h
  · cases h
  · rename_i row hrow
    split at h
    · cases h
    · rename_i b hb
      exact ⟨row, b, hrow, hb, by simpa using h.symm⟩

/-- What a row can do to the registers: the micro-op holds; or it is complete and K moves on; or the primitive
completes, by its last row or by a poll giving up, and the command's transition follows. -/
theorem Plan.rowStep_some {p : Plan} {du : Nat} {l : Level} {pay : Byte → Byte} {row : MicroRow} {b c : Block}
    (h : p.rowStep du l pay row b = some c) :
    row.op.run du l b = (c, .hold) ∨
    (∃ b', row.op.run du l b = (b', .done) ∧ row.last = false ∧ c = b'.withK (b'.k + 1)) ∨
    (∃ b' b'', (row.op.run du l b = (b', .done) ∧ row.last = true ∨ row.op.run du l b = (b', .giveUp)) ∧
      p.after pay b' = some b'' ∧ c = b''.withK 0) := by
  unfold Plan.rowStep at h
  split at h
  · rename_i b' hb
    left; simp_all
  · rename_i b' hb
    right
    unfold Plan.complete at h
    split at h
    · rename_i hl
      simp only [Option.map_eq_some_iff] at h
      obtain ⟨b'', h1, h2⟩ := h
      exact .inr ⟨b', b'', .inl ⟨hb, hl⟩, h1, h2.symm⟩
    · rename_i hl
      exact .inl ⟨b', hb, by simpa using hl, by simpa using h.symm⟩
  · rename_i b' hb
    right; right
    simp only [Plan.complete, if_true, Option.map_eq_some_iff] at h
    obtain ⟨b'', h1, h2⟩ := h
    exact ⟨b', b'', .inr hb, h1, h2.symm⟩

/-- Every row of a byte's table and of the short tables below 8 exists. -/
theorem Block.row_some {b : Block} (r : Bool) (hb : b.phase ≠ .idle)
    (hk : b.phase = .start ∨ b.phase = .rstart ∨ b.phase = .stop → b.k.toNat ≤ 7) :
    ∃ row, b.row r = some row := by
  have key : ∀ n : Nat, n ≤ 7 → (∃ row, startRow n = some row) ∧ (∃ row, stopRow n = some row) := by
    intro n hn
    interval_cases n <;> simp [startRow, stopRow]
  unfold Block.row
  cases hp : b.phase <;> simp_all

end Sys2Proof.Machine
end

