-- ==== Sys2Proof/Laws/Rows.lean ====
section
/-! SUPPORT. One lemma per way a row ends, for `rowStep` and for `exec`; which row stands where; the abort. -/

namespace Sys2Proof.Machine

/-- A wait's last clock cycle. -/
theorem Block.waitCycle_last {du : Nat} {b : Block} (h : b.hbCnt.toNat + 1 = du) :
    b.waitCycle du = (b.withHbCnt 0, .done) := if_pos h

/-- A wait's earlier clock cycles. -/
theorem Block.waitCycle_hold {du : Nat} {b : Block} (h : b.hbCnt.toNat + 1 ≠ du) :
    b.waitCycle du = (b.withHbCnt (b.hbCnt + 1), .hold) := if_neg h

/-- A low sample acknowledges. -/
theorem Block.pollSample_low {du : Nat} {b : Block} : b.pollSample du false = (b.withAckf true, .done) := rfl

/-- The last allowed high sample gives up. -/
theorem Block.pollSample_giveUp {du : Nat} {b : Block} (h : b.pollCnt.toNat + 1 = pollBound du) :
    b.pollSample du true = (b.withAckf false, .giveUp) := by
  simp [Block.pollSample, h]

/-- Any other high sample is counted. -/
theorem Block.pollSample_high {du : Nat} {b : Block} (h : b.pollCnt.toNat + 1 ≠ pollBound du) :
    b.pollSample du true = (b.withPollCnt (b.pollCnt + 1), .hold) := by
  simp [Block.pollSample, h]

/-- The byte with one bit set to a level has that bit so and every other as before. -/
theorem withBit_getLsbD (v : Byte) (i : Fin 8) (l : Level) {b : Nat} (hb : b < 8) :
    (withBit v i l).getLsbD b = if b = i.val then l else v.getLsbD b := by
  have hi := i.isLt
  generalize hn : i.val = n at hi
  simp only [withBit, hn]
  interval_cases n <;> interval_cases b <;> cases l <;> simp

/-- A busy command on a known row. -/
theorem exec_row {i : Instr} {s : State} {row : MicroRow} (hp : s.block.phase ≠ .idle)
    (hr : s.block.row ((planOf i).receives s.block) = some row) :
    exec i s =
      match (planOf i).rowStep s.du s.env.dataLevel s.pay row s.block with
      | none => .fault .noTransition
      | some b => .next { s with block := b, env := row.useEnv s.env } := by
  rw [exec_busy i hp, microStep_row hr] <;> rfl

/-- The micro-op holds the position. -/
theorem exec_hold {i : Instr} {s : State} {row : MicroRow} {b : Block} (hp : s.block.phase ≠ .idle)
    (hr : s.block.row ((planOf i).receives s.block) = some row)
    (h : row.op.run s.du s.env.dataLevel s.block = (b, .hold)) :
    exec i s = .next { s with block := b, env := row.useEnv s.env } := by
  rw [exec_row hp hr]
  simp [Plan.rowStep, h]

/-- The micro-op is complete and is not the primitive's last. -/
theorem exec_inner {i : Instr} {s : State} {op : MicroOp} {b : Block} (hp : s.block.phase ≠ .idle)
    (hr : s.block.row ((planOf i).receives s.block) = some (.inner op))
    (h : op.run s.du s.env.dataLevel s.block = (b, .done)) :
    exec i s = .next { s with block := b.withK (b.k + 1), env := (MicroRow.inner op).useEnv s.env } := by
  rw [exec_row hp hr]
  simp [Plan.rowStep, Plan.complete, MicroRow.inner, h]

/-- The last row of a primitive, always a wait, is complete: the command's transition is made. -/
theorem exec_final {i : Instr} {s : State} {b : Block} (hp : s.block.phase ≠ .idle)
    (hr : s.block.row ((planOf i).receives s.block) = some (.final .wait)) (hl : s.lastWaitCycle)
    (ha : (planOf i).after s.pay (s.block.withHbCnt 0) = some b) :
    exec i s = .next { s with block := b.withK 0 } := by
  rw [exec_row hp hr]
  simp only [Plan.rowStep, Plan.complete, MicroRow.final, MicroOp.run, Block.waitCycle_last hl, if_true, ha,
    Option.map_some, MicroRow.useEnv, MicroOp.samples]
  rfl

/-- The poll gives up: the command's transition is made. -/
theorem exec_giveUp {i : Instr} {s : State} {row : MicroRow} {b c : Block} (hp : s.block.phase ≠ .idle)
    (hr : s.block.row ((planOf i).receives s.block) = some row)
    (h : row.op.run s.du s.env.dataLevel s.block = (b, .giveUp))
    (ha : (planOf i).after s.pay b = some c) :
    exec i s = .next { s with block := c.withK 0, env := row.useEnv s.env } := by
  rw [exec_row hp hr]
  simp [Plan.rowStep, Plan.complete, h, ha]

/-- Both Starts use the Start table. -/
theorem Block.row_start {b : Block} (r : Bool) (h : b.phase = .start ∨ b.phase = .rstart) :
    b.row r = startRow b.k.toNat := by
  rcases h with h | h <;> simp [Block.row, h]

/-- `STOP` uses the Stop table. -/
theorem Block.row_stop {b : Block} (r : Bool) (h : b.phase = .stop) : b.row r = stopRow b.k.toNat := by
  simp [Block.row, h]

/-- A sending phase uses the SendByte table, and is busy. -/
theorem row_sending {i : Instr} {b : Block} (hc : b.command = some i) (hs : b.sending) :
    b.phase ≠ .idle ∧ b.row ((planOf i).receives b) = some (sendRow b.k.toNat) := by
  rw [planOf_receives hc]
  rcases hs with h | ⟨h, h'⟩
  · simp [Block.row, h]
  · simp [Block.row, h, h']

/-- A receiving phase uses the ReceiveByte table. -/
theorem row_receiving {i : Instr} {b : Block} (hc : b.command = some i) (hp : b.phase = .data)
    (hr : b.receives = true) : b.row ((planOf i).receives b) = some (receiveRow b.k.toNat) := by
  rw [planOf_receives hc]
  simp [Block.row, hp, hr]

/-- A SendByte that was not acknowledged takes every command to the abort (rules R149, R173). -/
theorem after_abort {i : Instr} {b : Block} (hc : b.command = some i) (hs : b.sending) (ha : b.ackf = false)
    (pay : Byte → Byte) : (planOf i).after pay b = some b.abort := by
  have hop := (Block.command_fields hc).1
  rcases hs with hp | ⟨hp, hr⟩
  · cases i <;>
      simp [planOf, writeBytePlan, writeMultiPlan, writeRegPlan, readBytePlan, readRegPlan, writeByteAfter,
        writeMultiAfter, writeRegAfter, readByteAfter, readRegAfter, hp, ha]
  · cases i <;> simp [Block.receives, Instr.op, hop] at hr <;>
      simp [planOf, writeBytePlan, writeMultiPlan, writeRegPlan, readRegPlan, writeByteAfter,
        writeMultiAfter, writeRegAfter, readRegAfter, hp, ha, hr]

/-- The end of a Stop is the response, whatever the command (rules R149, R150). -/
theorem after_stop (i : Instr) {b : Block} (hp : b.phase = .stop) (pay : Byte → Byte) :
    (planOf i).after pay b = some b.respond := by
  cases i <;>
    simp [planOf, writeBytePlan, writeMultiPlan, writeRegPlan, readBytePlan, readRegPlan, writeByteAfter,
      writeMultiAfter, writeRegAfter, readByteAfter, readRegAfter, hp]

end Sys2Proof.Machine
end

