-- ==== Sys2Proof/Laws/Frames.lean ====
section
/-! SUPPORT. What a micro-op and a transition leave unchanged, said once. -/

namespace Sys2Proof.Machine

/-- A micro-op writes lines, `SHREG`, `ACKF` and the two counters only; at most one line. -/
theorem MicroOp.run_frame {du : Nat} {l : Level} {b c : Block} {f : Fate} {op : MicroOp}
    (h : op.run du l b = (c, f)) :
    c.phase = b.phase ∧ c.k = b.k ∧ c.op = b.op ∧ c.a = b.a ∧ c.rl = b.rl ∧ c.dat = b.dat ∧ c.byteI = b.byteI ∧
    c.rs = b.rs ∧ c.err = b.err ∧ c.ill = b.ill ∧ c.rspv = b.rspv ∧ c.rxdata = b.rxdata ∧
    (c.scl = b.scl ∨ c.sda = b.sda) := by
  cases op with
  | wait =>
    simp only [MicroOp.run, Block.waitCycle] at h
    split at h <;> cases h <;> simp
  | poll =>
    simp only [MicroOp.run, Block.pollSample] at h
    split at h
    · cases h; simp
    · split at h <;> cases h <;> simp
  | _ => cases h; simp

/-- A micro-op changes the lines as its event says (rules R10, R11). -/
theorem MicroOp.run_lines {du : Nat} {l : Level} {b c : Block} {f : Fate} {op : MicroOp}
    (h : op.run du l b = (c, f)) :
    (c.scl, c.sda) =
      match op.event du l b with
      | some .clockLow => (false, b.sda)
      | some .clockHigh => (true, b.sda)
      | some .dataLow => (b.scl, false)
      | some .dataHigh => (b.scl, true)
      | some .wait => (b.scl, b.sda)
      | some .sampleLow => (b.scl, b.sda)
      | some .sampleHigh => (b.scl, b.sda)
      | none => (b.scl, b.sda) := by
  cases op with
  | setClock x => cases h; cases x <;> rfl
  | setData x => cases h; cases x <;> rfl
  | setDataBit i =>
    cases h
    simp only [MicroOp.event, dataEvent]
    cases hb : bitOf b.shreg i <;> simp
  | release => cases h; rfl
  | setClockPoll => cases h; rfl
  | wait =>
    simp only [MicroOp.run, Block.waitCycle] at h
    simp only [MicroOp.event, Block.waitCycle]
    split at h <;> rename_i hw <;> cases h <;> simp [hw]
  | poll =>
    simp only [MicroOp.run, Block.pollSample] at h
    simp only [MicroOp.event]
    cases l <;> simp only [sampleEvent, if_true, Bool.false_eq_true, if_false, Bool.true_eq_false] at h ⊢
    · cases h; rfl
    · split at h <;> cases h <;> rfl
  | sampleBit i =>
    cases h
    cases l <;> rfl

/-- A sample is an event L or H, and no other micro-op emits one (rule R10). -/
theorem MicroOp.samples_iff_event (du : Nat) (l : Level) (b : Block) (op : MicroOp) :
    op.samples = true ↔ op.event du l b = some .sampleLow ∨ op.event du l b = some .sampleHigh := by
  cases op with
  | wait =>
    simp only [MicroOp.samples, MicroOp.event]
    split <;> simp
  | setDataBit i =>
    simp only [MicroOp.samples, MicroOp.event, dataEvent]
    cases bitOf b.shreg i <;> simp
  | setClock x => cases x <;> simp [MicroOp.samples, MicroOp.event, clockEvent]
  | setData x => cases x <;> simp [MicroOp.samples, MicroOp.event, dataEvent]
  | poll => cases l <;> simp [MicroOp.samples, MicroOp.event, sampleEvent]
  | sampleBit i => cases l <;> simp [MicroOp.samples, MicroOp.event, sampleEvent]
  | release => simp [MicroOp.samples, MicroOp.event]
  | setClockPoll => simp [MicroOp.samples, MicroOp.event]

/-- A transition leaves lines, latch, `ILL`, `ACKF`, the counters and K alone (rule R149). -/
theorem after_frame {i : Instr} {pay : Byte → Byte} {b c : Block} (h : (planOf i).after pay b = some c) :
    c.scl = b.scl ∧ c.sda = b.sda ∧ c.op = b.op ∧ c.a = b.a ∧ c.rl = b.rl ∧ c.dat = b.dat ∧ c.ill = b.ill ∧
    c.ackf = b.ackf ∧ c.pollCnt = b.pollCnt ∧ c.hbCnt = b.hbCnt ∧ c.k = b.k := by
  cases i <;>
    simp only [planOf, writeBytePlan, writeMultiPlan, writeRegPlan, readBytePlan, readRegPlan, writeByteAfter,
      writeMultiAfter, writeRegAfter, readByteAfter, readRegAfter] at h <;>
    split at h <;> (repeat' split at h) <;> cases h <;> simp

/-- Where the special rows stand: the poll at K = 61 and the write that opens it at K = 60 of a sending phase, a primitive's last
row, always a wait, at K = 7 or K = 63 (rules R110, R111, R130, R131). -/
theorem Block.row_place {b : Block} {r : Bool} {row : MicroRow} (h : b.row r = some row) :
    (row.op = .poll → (b.phase = .addr ∨ (b.phase = .data ∧ r = false)) ∧ b.k = 61) ∧
    (row.op = .setClockPoll → (b.phase = .addr ∨ (b.phase = .data ∧ r = false)) ∧ b.k = 60) ∧
    (row.last = true → row.op = .wait ∧
      (b.phase = .start ∨ b.phase = .rstart ∨ b.phase = .stop → b.k = 7) ∧
      (b.phase = .addr ∨ b.phase = .data → b.k = 63)) := by
  have short : ∀ (k : BitVec 6) (row : MicroRow), startRow k.toNat = some row ∨ stopRow k.toNat = some row →
      row.op ≠ .poll ∧ row.op ≠ .setClockPoll ∧ (row.last = true → row.op = .wait ∧ k = 7) := by
    intro k row hk
    have hlt : k.toNat < 64 := k.isLt
    have key : ∀ n : Nat, n < 64 → ∀ row : MicroRow, startRow n = some row ∨ stopRow n = some row →
        row.op ≠ .poll ∧ row.op ≠ .setClockPoll ∧ (row.last = true → row.op = .wait ∧ n = 7) := by
      intro n hn row hr
      match n with
      | 0 | 1 | 2 | 3 | 4 | 5 | 6 | 7 => rcases hr with hr | hr <;> cases hr <;> simp [MicroRow.inner, MicroRow.final]
      | n + 8 => rcases hr with hr | hr <;> cases hr
    obtain ⟨h1, h2, h3⟩ := key _ hlt row hk
    exact ⟨h1, h2, fun hl => ⟨(h3 hl).1, BitVec.eq_of_toNat_eq (h3 hl).2⟩⟩
  have send : ∀ k : BitVec 6, ((sendRow k.toNat).op = .poll → k = 61) ∧
      ((sendRow k.toNat).op = .setClockPoll → k = 60) ∧
      ((sendRow k.toNat).last = true → (sendRow k.toNat).op = .wait ∧ k = 63) := by
    intro k
    have key : ∀ n : Nat, n < 64 → ((sendRow n).op = .poll → n = 61) ∧ ((sendRow n).op = .setClockPoll → n = 60) ∧
      ((sendRow n).last = true → (sendRow n).op = .wait ∧ n = 63) := by decide
    obtain ⟨h1, h2, h3⟩ := key _ k.isLt
    exact ⟨fun h => BitVec.eq_of_toNat_eq (h1 h), fun h => BitVec.eq_of_toNat_eq (h2 h),
      fun h => ⟨(h3 h).1, BitVec.eq_of_toNat_eq (h3 h).2⟩⟩
  have receive : ∀ k : BitVec 6, (receiveRow k.toNat).op ≠ .poll ∧ (receiveRow k.toNat).op ≠ .setClockPoll ∧
      ((receiveRow k.toNat).last = true → (receiveRow k.toNat).op = .wait ∧ k = 63) := by
    intro k
    have key : ∀ n : Nat, n < 64 → (receiveRow n).op ≠ .poll ∧ (receiveRow n).op ≠ .setClockPoll ∧
      ((receiveRow n).last = true → (receiveRow n).op = .wait ∧ n = 63) := by decide
    obtain ⟨h1, h2, h3⟩ := key _ k.isLt
    exact ⟨h1, h2, fun h => ⟨(h3 h).1, BitVec.eq_of_toNat_eq (h3 h).2⟩⟩
  unfold Block.row at h
  cases hp : b.phase <;> simp only [hp] at h
  case idle => cases h
  case start =>
    obtain ⟨h1, h2, h3⟩ := short _ row (.inl h)
    exact ⟨fun h => absurd h h1, fun h => absurd h h2, fun h => ⟨(h3 h).1, fun _ => (h3 h).2, by simp⟩⟩
  case rstart =>
    obtain ⟨h1, h2, h3⟩ := short _ row (.inl h)
    exact ⟨fun h => absurd h h1, fun h => absurd h h2, fun h => ⟨(h3 h).1, fun _ => (h3 h).2, by simp⟩⟩
  case stop =>
    obtain ⟨h1, h2, h3⟩ := short _ row (.inr h)
    exact ⟨fun h => absurd h h1, fun h => absurd h h2, fun h => ⟨(h3 h).1, fun _ => (h3 h).2, by simp⟩⟩
  case addr =>
    cases h
    obtain ⟨h1, h2, h3⟩ := send b.k
    exact ⟨fun h => ⟨.inl rfl, h1 h⟩, fun h => ⟨.inl rfl, h2 h⟩, fun h => ⟨(h3 h).1, by simp, fun _ => (h3 h).2⟩⟩
  case data =>
    cases r
    · cases h
      obtain ⟨h1, h2, h3⟩ := send b.k
      exact ⟨fun h => ⟨.inr ⟨rfl, rfl⟩, h1 h⟩, fun h => ⟨.inr ⟨rfl, rfl⟩, h2 h⟩,
        fun h => ⟨(h3 h).1, by simp, fun _ => (h3 h).2⟩⟩
    · cases h
      obtain ⟨h1, h2, h3⟩ := receive b.k
      exact ⟨fun h => absurd h h1, fun h => absurd h h2, fun h => ⟨(h3 h).1, by simp, fun _ => (h3 h).2⟩⟩

/-- A micro-op writes `ACKF` in the poll only, `POLL_CNT` at the poll and before it, `HB_CNT` in a wait, `SHREG` when it
receives; giving up clears `ACKF` and is the poll's. -/
theorem MicroOp.run_working {du : Nat} {l : Level} {b c : Block} {f : Fate} {op : MicroOp}
    (h : op.run du l b = (c, f)) :
    (op ≠ .poll → c.ackf = b.ackf ∧ f ≠ .giveUp) ∧ (op ≠ .poll → op ≠ .setClockPoll → c.pollCnt = b.pollCnt) ∧
    (op ≠ .wait → c.hbCnt = b.hbCnt) ∧ (op ≠ .release → (∀ i, op ≠ .sampleBit i) → c.shreg = b.shreg) ∧
    (f = .giveUp → c.ackf = false) := by
  cases op with
  | wait =>
    simp only [MicroOp.run, Block.waitCycle] at h
    split at h <;> cases h <;> simp
  | poll =>
    simp only [MicroOp.run, Block.pollSample] at h
    split at h
    · cases h; simp
    · split at h <;> cases h <;> simp
  | _ => cases h; simp

end Sys2Proof.Machine
end

