-- ==== Sys2Proof/Laws/Memory.lean ====
section
/-! SUPPORT. The payload memory: every operation keeps the canonical form; a read after a write. -/

namespace Sys2Proof.Machine

/-- Nothing below the first address is listed. -/
theorem Memory.lookup_below {lo : Nat} {m : Memory} (h : Memory.wfFrom lo m = true) {n : Nat} (hn : n < lo) :
    Memory.lookup m n = Memory.unlisted := by
  induction m generalizing lo with
  | nil => rfl
  | cons c m ih =>
    obtain ⟨x, v⟩ := c
    simp only [Memory.wfFrom, Bool.and_eq_true, decide_eq_true_eq] at h
    have hx : x ≠ n := by omega
    simp only [Memory.lookup, if_neg hx]
    exact ih h.2 (by omega)

/-- A canonical list may begin lower. -/
theorem Memory.wfFrom_mono {lo lo' : Nat} {m : Memory} (h : Memory.wfFrom lo m = true) (hl : lo' ≤ lo) :
    Memory.wfFrom lo' m = true := by
  cases m with
  | nil => rfl
  | cons c m =>
    obtain ⟨x, v⟩ := c
    simp only [Memory.wfFrom, Bool.and_eq_true, decide_eq_true_eq] at h ⊢
    exact ⟨⟨⟨by omega, h.1.1.2⟩, h.1.2⟩, h.2⟩

/-- Putting a byte at an address keeps the canonical form. -/
theorem Memory.insert_wfFrom {lo : Nat} {m : Memory} (h : Memory.wfFrom lo m = true) {n : Nat} (hlo : lo ≤ n)
    (hn : n < 256) (v : Byte) : Memory.wfFrom lo (Memory.insert m n v) = true := by
  induction m generalizing lo with
  | nil =>
    simp only [Memory.insert]
    split
    · rfl
    · rename_i hv
      simp [Memory.wfFrom, hlo, hn, hv]
  | cons c m ih =>
    obtain ⟨x, w⟩ := c
    have h' := h
    simp only [Memory.wfFrom, Bool.and_eq_true, decide_eq_true_eq] at h
    simp only [Memory.insert]
    split
    · split
      · exact h'
      · rename_i hv
        simp only [Memory.wfFrom, Bool.and_eq_true, decide_eq_true_eq]
        exact ⟨⟨⟨hlo, hn⟩, hv⟩, ⟨⟨⟨by omega, h.1.1.2⟩, h.1.2⟩, h.2⟩⟩
    · split
      · rename_i hnx
        split
        · exact Memory.wfFrom_mono h.2 (by omega)
        · rename_i hv
          simp only [Memory.wfFrom, Bool.and_eq_true, decide_eq_true_eq]
          exact ⟨⟨⟨hlo, hn⟩, hv⟩, hnx ▸ h.2⟩
      · simp only [Memory.wfFrom, Bool.and_eq_true, decide_eq_true_eq]
        exact ⟨h.1, ih h.2 (by omega)⟩

/-- The host's write keeps the canonical form. -/
theorem Memory.write_wf {m : Memory} (h : m.wf = true) (i v : Byte) : (m.write i v).wf = true :=
  Memory.insert_wfFrom h (Nat.zero_le _) i.isLt v

/-- Looking up after putting a byte: the byte there, everything else as before. -/
theorem Memory.lookup_insert {lo : Nat} {m : Memory} (h : Memory.wfFrom lo m = true) (n k : Nat) (v : Byte) :
    Memory.lookup (Memory.insert m n v) k = if k = n then v else Memory.lookup m k := by
  induction m generalizing lo with
  | nil =>
    by_cases hv : v = Memory.unlisted
    · simp only [Memory.insert, if_pos hv, Memory.lookup]
      split
      · exact hv.symm
      · rfl
    · simp only [Memory.insert, if_neg hv, Memory.lookup]
      exact if_congr eq_comm rfl rfl
  | cons c m ih =>
    obtain ⟨x, w⟩ := c
    have h' := h
    simp only [Memory.wfFrom, Bool.and_eq_true, decide_eq_true_eq] at h
    simp only [Memory.insert]
    split
    · rename_i hnx
      by_cases hv : v = Memory.unlisted
      · by_cases hk : k = n
        · have := Memory.lookup_below (Memory.wfFrom_mono (lo := x) (lo' := x)
            (m := (x, w) :: m) (by simp [Memory.wfFrom, h]) (le_refl x)) hnx
          simp [hv, hk, this]
        · simp [hv, hk]
      · simp only [if_neg hv, Memory.lookup]
        exact if_congr eq_comm rfl rfl
    · split
      · rename_i hnx
        subst hnx
        by_cases hv : v = Memory.unlisted
        · by_cases hk : k = n
          · have := Memory.lookup_below h.2 (n := n) (by omega)
            simp [hv, hk, this]
          · simp [hv, hk, Memory.lookup, eq_comm]
            intro hc; exact absurd hc.symm hk
        · by_cases hk : k = n
          · simp [hv, hk, Memory.lookup]
          · have hk' : n ≠ k := fun e => hk e.symm
            simp [hv, hk, hk', Memory.lookup]
      · rename_i hlt hne
        by_cases hx : x = k
        · have : k ≠ n := by omega
          simp [Memory.lookup, hx, this]
        · simp only [Memory.lookup, if_neg hx]
          exact ih h.2

/-- A read after the host's write. -/
theorem Memory.read_write {m : Memory} (h : m.wf = true) (i j v : Byte) :
    (m.write i v).read j = if j = i then v else m.read j := by
  have := Memory.lookup_insert h i.toNat j.toNat v
  simpa [Memory.read, Memory.write, ← BitVec.toNat_inj] using this

/-- The host's cycle keeps the canonical form. -/
theorem HostCycle.store_wf (h : HostCycle) {m : Memory} (hm : m.wf = true) : (h.store m).wf = true := by
  unfold HostCycle.store
  split
  · exact Memory.write_wf hm _ _
  · exact hm

/-- What the payload memory reads as in a cycle of the host. -/
theorem HostCycle.read_store (h : HostCycle) {m : Memory} (hm : m.wf = true) (j : Byte) :
    (h.store m).read j =
      match h.plWrite with
      | some (i, v) => if j = i then v else m.read j
      | none => m.read j := by
  unfold HostCycle.store
  split
  · rename_i e
    simpa [e] using Memory.read_write hm _ _ _
  · rename_i e
    simp [e]

/-- Reset's payload memory is canonical. -/
theorem Memory.reset_wf : State.reset.env.payload.wf = true := rfl

end Sys2Proof.Machine
end

