-- ==== Sys2Proof/Laws/PerInstr.lean ====
section
/-! SUPPORT. One lemma per command: the fields of its word (rules R81, R82). -/

namespace Sys2Proof.Laws.EncodedFields

/-- The word of a command carries its `OP`, zeros in the reserved bits, and its operands (rules R81, R82). -/
def Statement (i : Instr) : Prop :=
  opField (encode i) = i.op ∧ z0Field (encode i) = 0 ∧ addrField (encode i) = i.addr ∧
  z1Field (encode i) = 0 ∧ regLenField (encode i) = i.regLen ∧ dataField (encode i) = i.data

theorem writeByte (a : Addr) (ignReg d : Byte) : Statement (.writeByte a ignReg d) := encode_fields _

theorem writeMulti (a : Addr) (n ignData : Byte) : Statement (.writeMulti a n ignData) := encode_fields _

theorem writeReg (a : Addr) (r d : Byte) : Statement (.writeReg a r d) := encode_fields _

theorem readByte (a : Addr) (ignReg ignData : Byte) : Statement (.readByte a ignReg ignData) := encode_fields _

theorem readReg (a : Addr) (r ignData : Byte) : Statement (.readReg a r ignData) := encode_fields _

end Sys2Proof.Laws.EncodedFields
end

