-- ==== Sys2Proof/Laws/Step.lean ====
section
/-! SUPPORT. What a step can do: one case for each thing a clock cycle is spent on. -/

namespace Sys2Proof.Machine

theorem step_reset {s : State} (h : s.action = .reset) : step s = .next s.beginCycle.resetBlock := by
  simp [step, h]

theorem step_idle {s : State} (h : s.action = .idle) :
    step s = .next { s.beginCycle with block := s.block.idleCycle } := by
  simp [step, h]

theorem step_refuse {s : State} (h : s.action = .refuse) :
    step s = .next { s.beginCycle with block := s.block.refuse } := by
  simp [step, h]

theorem step_run {s : State} {i : Instr} (h : s.action = .run i) : step s = exec i s.beginCycle := by
  simp [step, h]

theorem action_reset {s : State} (h : s.hostNow.rstN = false) : s.action = .reset := by
  simp [State.action, h]

theorem action_idle {s : State} (hr : s.hostNow.rstN = true) (hp : s.block.phase = .idle)
    (hv : s.hostNow.cmdValid = false) : s.action = .idle := by
  simp [State.action, hr, hp, hv]

theorem action_refuse {s : State} {why : Illegal} (hr : s.hostNow.rstN = true) (hp : s.block.phase = .idle)
    (hv : s.hostNow.cmdValid = true) (hd : decode s.hostNow.cmdWord = .illegal why) : s.action = .refuse := by
  simp [State.action, hr, hp, hv, hd]

theorem action_presented {s : State} {i : Instr} (hr : s.hostNow.rstN = true) (hp : s.block.phase = .idle)
    (hv : s.hostNow.cmdValid = true) (hd : decode s.hostNow.cmdWord = .command i) : s.action = .run i := by
  simp [State.action, hr, hp, hv, hd]

theorem action_inFlight {s : State} {i : Instr} (hr : s.hostNow.rstN = true) (hp : s.block.phase ≠ .idle)
    (hc : s.block.command = some i) : s.action = .run i := by
  simp [State.action, hr, hp, hc]

/-- What a clock cycle that answers a next state did: reset, an idle cycle, a refusal, an acceptance, or one row
of the command in flight. -/
theorem step_cases {s t : State} (h : step s = .next t) :
    (s.action = .reset ∧ s.hostNow.rstN = false ∧ t = s.beginCycle.resetBlock) ∨
    (s.action = .idle ∧ s.hostNow.rstN = true ∧ s.block.phase = .idle ∧
      t = { s.beginCycle with block := s.block.idleCycle }) ∨
    (s.action = .refuse ∧ s.hostNow.rstN = true ∧ s.block.phase = .idle ∧
      t = { s.beginCycle with block := s.block.refuse }) ∨
    (∃ i, s.action = .run i ∧ s.hostNow.rstN = true ∧ s.block.phase = .idle ∧
      t = { s.beginCycle with block := s.block.accept i }) ∨
    (∃ i row b, s.action = .run i ∧ s.hostNow.rstN = true ∧ s.block.phase ≠ .idle ∧ s.block.command = some i ∧
      s.block.row s.block.receives = some row ∧
      (planOf i).rowStep s.du s.env.dataLevel s.beginCycle.pay row s.block = some b ∧
      t = { s.beginCycle with block := b, env := row.useEnv s.beginCycle.env }) := by
  by_cases hr : s.hostNow.rstN = false
  · have ha := action_reset hr
    rw [step_reset ha] at h
    exact .inl ⟨ha, hr, by simpa using h.symm⟩
  · right
    have hr' : s.hostNow.rstN = true := by simpa using hr
    by_cases hp : s.block.phase = .idle
    · by_cases hv : s.hostNow.cmdValid = false
      · have ha := action_idle hr' hp hv
        rw [step_idle ha] at h
        exact .inl ⟨ha, hr', hp, by simpa using h.symm⟩
      · right
        have hv' : s.hostNow.cmdValid = true := by simpa using hv
        cases hd : decode s.hostNow.cmdWord with
        | illegal why =>
          have ha := action_refuse hr' hp hv' hd
          rw [step_refuse ha] at h
          exact .inl ⟨ha, hr', hp, by simpa using h.symm⟩
        | command i =>
          have ha := action_presented hr' hp hv' hd
          have hi : s.beginCycle.block.phase = .idle := hp
          rw [step_run ha, exec_idle i hi] at h
          exact .inr (.inl ⟨i, ha, hr', hp, by simpa using h.symm⟩)
    · right; right; right
      cases hc : s.block.command with
      | none => simp [step, State.action, hr', hp, hc] at h
      | some i =>
        have ha := action_inFlight hr' hp hc
        have hi : s.beginCycle.block.phase ≠ .idle := hp
        rw [step_run ha, exec_busy i hi] at h
        obtain ⟨row, b, h1, h2, h3⟩ := microStep_next h
        rw [State.beginCycle_block, planOf_receives hc] at h1
        exact ⟨i, row, b, ha, hr', hp, rfl, h1, h2, h3⟩

end Sys2Proof.Machine
end

