-- ==== Sys2Proof/Laws/Runs.lean ====
section
/-! SUPPORT. Runs of many clock cycles put together from runs of one, while the host holds: a line write or a sample
takes one cycle, a wait `DELAY_UNITS` of them (rules R101, R148). -/

namespace Sys2Proof.Machine

/-- From s, n clock cycles emit the trace and lead to t. -/
def Runs (n : Nat) (s : State) (tr : List Event) (t : State) : Prop :=
  runFor n s = .next t ∧ traceFor n s = tr

theorem Runs.refl (s : State) : Runs 0 s [] s := ⟨rfl, rfl⟩

/-- A step in front of a run. -/
theorem Runs.step {n : Nat} {s t u : State} {tr : List Event} (h : Machine.step s = .next t) (hr : Runs n t tr u) :
    Runs (n + 1) s (s.event.toList ++ tr) u := by
  constructor
  · simp only [runFor, h]; exact hr.1
  · simp only [traceFor, h, hr.2]

/-- Runs follow each other. -/
theorem Runs.trans {n m : Nat} {s t u : State} {tr tr' : List Event} (h : Runs n s tr t) (h' : Runs m t tr' u) :
    Runs (n + m) s (tr ++ tr') u := by
  induction n generalizing s tr with
  | zero =>
    obtain ⟨h1, h2⟩ := h
    simp only [runFor, Host.Outcome.next.injEq] at h1
    simp only [traceFor] at h2
    subst h1 h2
    simpa using h'
  | succ n ih =>
    obtain ⟨h1, h2⟩ := h
    cases hs : Machine.step s with
    | next v =>
      simp only [runFor, traceFor, hs] at h1 h2
      have := Runs.step hs (ih ⟨h1, rfl⟩)
      rw [← h2, List.append_assoc, Nat.add_right_comm]
      exact this
    | fault f => simp [runFor, hs] at h1
    | refused r => simp [runFor, hs] at h1

/-- The first of the cycles in which the host holds. -/
theorem HostHolds.now {n : Nat} {s : State} (h : HostHolds (n + 1) s) :
    s.hostNow.rstN = true ∧ s.hostNow.plWrite = none := by
  unfold State.hostNow
  cases hh : s.env.host with
  | nil => exact ⟨rfl, rfl⟩
  | cons a l => exact h a (by simp [hh])

/-- The host holds on, in every state whose coming cycles are those after the first m. -/
theorem HostHolds.later {n m : Nat} {s t : State} (h : HostHolds (m + n) s)
    (ht : t.env.host = s.env.host.drop m) : HostHolds n t := by
  intro x hx
  apply h x
  rw [ht] at hx
  rw [List.take_add]
  exact List.mem_append_right _ hx

/-- The host holds for fewer cycles too. -/
theorem HostHolds.mono {n m : Nat} {s : State} (h : HostHolds n s) (hm : m ≤ n) : HostHolds m s := by
  intro x hx
  exact h x ((List.take_sublist_take_left hm).subset hx)

/-- The inputs after some cycles and samples, and then after some more. -/
theorem Env.advance_advance (e : Env) (n m p q : Nat) :
    (e.advance n p).advance m q = e.advance (n + m) (p + q) := by
  simp [Env.advance, List.drop_drop, Nat.add_assoc]

theorem Env.advance_zero (e : Env) : e.advance 0 0 = e := by simp [Env.advance]

/-- A sample takes the first of the levels to come. -/
theorem Env.takeSample_advance (e : Env) (n : Nat) : (e.advance n 0).takeSample = e.advance n 1 := by
  simp [Env.takeSample, Env.advance]

/-- The level of the Data line now is that of the first sample to come. -/
theorem Env.dataLevel_samples (e : Env) : e.dataLevel = e.samples 0 := by
  unfold Env.dataLevel Env.samples
  cases e.dataIn <;> simp

/-- The samples to come, after p have been taken. -/
theorem Env.samples_advance (e : Env) (n p q : Nat) : (e.advance n p).samples q = e.samples (p + q) := by
  simp [Env.samples, Env.advance, Nat.add_assoc]

/-- A cycle in which the host holds only uses that cycle up. -/
theorem beginCycle_holds {n : Nat} {s : State} (h : HostHolds (n + 1) s) :
    s.beginCycle = { s with env := s.env.advance 1 0 } := by
  simp [State.beginCycle, HostCycle.store, h.now.2, Env.advance]

/-- One clock cycle of a command in flight while the host holds. -/
theorem step_holds {n : Nat} {i : Instr} {s : State} {row : MicroRow} (h : HostHolds (n + 1) s)
    (hp : s.block.phase ≠ .idle) (hc : s.block.command = some i) (hr : s.block.row s.block.receives = some row) :
    Machine.step s =
      (match (planOf i).rowStep s.du s.env.dataLevel s.pay row s.block with
      | none => .fault .noTransition
      | some b => .next { s with block := b, env := row.useEnv (s.env.advance 1 0) }) ∧
    s.event = row.op.event s.du s.env.dataLevel s.block := by
  have ha := action_inFlight h.now.1 hp hc
  constructor
  · rw [step_run ha, beginCycle_holds h,
      exec_row (s := { s with env := s.env.advance 1 0 }) (row := row) hp (by rw [planOf_receives hc]; exact hr)]
    rfl
  · simp only [State.event, ha]
    rw [planOf_receives hc, hr]

/-- A micro-op that is complete in one cycle and is not its primitive's last. -/
theorem runs_inner {n : Nat} {i : Instr} {s : State} {op : MicroOp} {b : Block} {e : Event} (h : HostHolds (n + 1) s)
    (hp : s.block.phase ≠ .idle) (hc : s.block.command = some i)
    (hr : s.block.row s.block.receives = some (.inner op))
    (ho : op.run s.du s.env.dataLevel s.block = (b, .done)) (he : op.event s.du s.env.dataLevel s.block = some e) :
    Runs 1 s [e]
      { s with block := b.withK (b.k + 1), env := s.env.advance 1 (if op.samples = true then 1 else 0) } := by
  obtain ⟨h1, h2⟩ := step_holds h hp hc hr
  have h3 : Machine.step s =
      .next { s with block := b.withK (b.k + 1), env := s.env.advance 1 (if op.samples = true then 1 else 0) } := by
    rw [h1]
    simp only [Plan.rowStep, MicroRow.inner, ho, Plan.complete, Bool.false_eq_true, if_false, MicroRow.useEnv,
      Env.takeSample_advance]
    split <;> rfl
  have := Runs.step h3 (Runs.refl _)
  rwa [h2, MicroRow.inner, he] at this

/-- A wait counts up to its last cycle. -/
theorem runs_wait_count {i : Instr} {s : State} {row : MicroRow} (hp : s.block.phase ≠ .idle)
    (hc : s.block.command = some i) (hr : s.block.row s.block.receives = some row) (ho : row.op = .wait) (k m : Nat)
    (hk : s.block.hbCnt.toNat = k) (hm : k + m + 1 ≤ s.du) (h : HostHolds m s) :
    Runs m s [] { s with block := s.block.withHbCnt (BitVec.ofNat 16 (k + m)), env := s.env.advance m 0 } := by
  induction m generalizing s k with
  | zero =>
    have : s.block.withHbCnt (BitVec.ofNat 16 (k + 0)) = s.block := by
      simp [Block.withHbCnt, ← hk]
    rw [this, Env.advance_zero]
    exact Runs.refl s
  | succ m ih =>
    obtain ⟨h1, h2⟩ := step_holds h hp hc hr
    have hw : s.block.waitCycle s.du = (s.block.withHbCnt (s.block.hbCnt + 1), .hold) :=
      Block.waitCycle_hold (by omega)
    have h3 : Machine.step s =
        .next { s with block := s.block.withHbCnt (s.block.hbCnt + 1), env := s.env.advance 1 0 } := by
      rw [h1]
      simp only [Plan.rowStep, ho, MicroOp.run, hw, MicroRow.useEnv, MicroOp.samples, Bool.false_eq_true, if_false]
    have h4 : s.event = none := by
      rw [h2, ho]
      simp [MicroOp.event, hw]
    have hdu : s.du ≤ 65535 := by
      have := s.delay.isLt
      simp only [State.du, delayUnits]
      omega
    have hnext : (s.block.hbCnt + 1).toNat = k + 1 := by
      simp [BitVec.toNat_add, hk]
      omega
    have h5 := ih (s := { s with block := s.block.withHbCnt (s.block.hbCnt + 1), env := s.env.advance 1 0 })
      hp hc hr (k + 1) hnext (by show k + 1 + m + 1 ≤ s.du; omega)
      ((show HostHolds (1 + m) s by rwa [Nat.add_comm]).later (by simp [Env.advance]))
    have h6 := Runs.step h3 h5
    rw [h4] at h6
    simp only [Env.advance_advance] at h6
    rw [Nat.add_comm 1 m, Nat.add_assoc k 1 m, Nat.add_comm 1 m] at h6
    exact h6

/-- A whole wait takes `DELAY_UNITS` cycles and emits its one event; then K moves on, or the primitive is complete and the
command's transition is made. -/
theorem runs_wait {i : Instr} {s : State} {row : MicroRow} {b : Block} (hp : s.block.phase ≠ .idle)
    (hc : s.block.command = some i) (hr : s.block.row s.block.receives = some row) (ho : row.op = .wait)
    (hk : s.block.hbCnt = 0) (h : HostHolds s.du s) (hb : (planOf i).complete s.pay row.last s.block = some b) :
    Runs s.du s [.wait] { s with block := b, env := s.env.advance s.du 0 } := by
  obtain ⟨d, hd⟩ : ∃ d, s.du = d + 1 := ⟨s.delay.val, rfl⟩
  have h1 := runs_wait_count hp hc hr ho 0 d (by simp [hk]) (by omega) (h.mono (by omega))
  rw [Nat.zero_add] at h1
  have hdu : d < 65535 := by
    have := s.delay.isLt
    simp only [State.du, delayUnits] at hd
    omega
  have hl : ({ s with block := s.block.withHbCnt (BitVec.ofNat 16 d), env := s.env.advance d 0 } : State).block.hbCnt.toNat
      + 1 = s.du := by
    simp [hd]
    omega
  have h2 : HostHolds (0 + 1) ({ s with block := s.block.withHbCnt (BitVec.ofNat 16 d), env := s.env.advance d 0 } : State) :=
    HostHolds.later (m := d) (by rw [Nat.zero_add, ← hd]; exact h) rfl
  obtain ⟨h3, h4⟩ := step_holds h2 hp hc (row := row) hr
  have hw := Block.waitCycle_last hl
  have hz : (s.block.withHbCnt (BitVec.ofNat 16 d)).withHbCnt 0 = s.block := by
    rw [← hk]
    rfl
  have h5 : Machine.step { s with block := s.block.withHbCnt (BitVec.ofNat 16 d), env := s.env.advance d 0 } =
      .next { s with block := b, env := s.env.advance s.du 0 } := by
    rw [h3]
    simp only [Plan.rowStep, ho, MicroOp.run, MicroRow.useEnv, MicroOp.samples, Bool.false_eq_true, if_false]
    rw [show ({ s with block := s.block.withHbCnt (BitVec.ofNat 16 d), env := s.env.advance d 0 } : State).du = s.du
      from rfl, hw, hz]
    rw [show ({ s with block := s.block.withHbCnt (BitVec.ofNat 16 d), env := s.env.advance d 0 } : State).pay = s.pay
      from rfl]
    show (match (planOf i).complete s.pay row.last s.block with
      | none => Host.Outcome.fault Fault.noTransition
      | some c => .next { s with block := c, env := (s.env.advance d 0).advance 1 0 }) = _
    rw [hb, Env.advance_advance, hd]
  have h6 := Runs.step h5 (Runs.refl _)
  rw [h4, ho] at h6
  have h7 : MicroOp.event s.du (s.env.advance d 0).dataLevel (s.block.withHbCnt (BitVec.ofNat 16 d)) .wait = some .wait := by
    simp only [MicroOp.event]
    rw [hw]
    rfl
  rw [show ({ s with block := s.block.withHbCnt (BitVec.ofNat 16 d), env := s.env.advance d 0 } : State).du = s.du
    from rfl, h7] at h6
  have h8 := h1.trans h6
  rw [hd] at h8 ⊢
  exact h8

/-- A whole wait that is not its primitive's last. -/
theorem runs_wait_inner {i : Instr} {s : State} (hp : s.block.phase ≠ .idle) (hc : s.block.command = some i)
    (hr : s.block.row s.block.receives = some (.inner .wait)) (hk : s.block.hbCnt = 0) (h : HostHolds s.du s) :
    Runs s.du s [.wait] { s with block := s.block.withK (s.block.k + 1), env := s.env.advance s.du 0 } :=
  runs_wait hp hc hr rfl hk h rfl

/-- A whole wait that completes a primitive. -/
theorem runs_wait_final {i : Instr} {s : State} {b : Block} (hp : s.block.phase ≠ .idle)
    (hc : s.block.command = some i) (hr : s.block.row s.block.receives = some (.final .wait))
    (hk : s.block.hbCnt = 0) (h : HostHolds s.du s) (ha : (planOf i).after s.pay s.block = some b) :
    Runs s.du s [.wait] { s with block := b.withK 0, env := s.env.advance s.du 0 } :=
  runs_wait hp hc hr rfl hk h (by simp [Plan.complete, MicroRow.final, ha])

/-- The clock cycles of two traces in a row. -/
theorem traceCycles_append (du : Nat) (t u : Trace) :
    traceCycles du (t ++ u) = traceCycles du t + traceCycles du u := by
  simp [traceCycles]

end Sys2Proof.Machine
end

