-- ==== Sys2Proof/Tests/Slice0.lean ====
section
/-! SUPPORT. The model's own tests, each with the vector or table of the spec its expected result comes from, and
the witnesses that the hypotheses of the statements can be met, clause by clause. -/

namespace Sys2Proof.Tests

open Sys2Proof Sys2Proof.Machine

/-! ### Well-formedness: each check refuses an ill-formed term (rules R87, R91) -/

theorem test_wf_writeByte : (Instr.writeByte 0x50 0xFF 0xA5).wellFormed = false := by decide
theorem test_wf_writeMulti : (Instr.writeMulti 0x3C 0x03 0x77).wellFormed = false := by decide
theorem test_wf_readByte_reg : (Instr.readByte 0x48 0xAD 0x00).wellFormed = false := by decide
theorem test_wf_readByte_data : (Instr.readByte 0x48 0x00 0xDE).wellFormed = false := by decide
theorem test_wf_readReg : (Instr.readReg 0x50 0x10 0xFF).wellFormed = false := by decide
theorem test_wf_writeReg : (Instr.writeReg 0x50 0x10 0xAB).wellFormed = true := by decide

/-! ### Decoding: words written out bit by bit from the pattern `dddddddd rrrrrrrr 0aaaaaaa 00000ooo` (rule R81) -/

theorem test_decode_writeByte :
    decode 0b10100101_00000000_01010000_00000001#32 = .command (.writeByte 0x50 0x00 0xA5) := by decide
theorem test_decode_writeMulti :
    decode 0b00000000_00000011_00111100_00000010#32 = .command (.writeMulti 0x3C 0x03 0x00) := by decide
theorem test_decode_writeReg :
    decode 0b10101011_00010000_01010000_00000011#32 = .command (.writeReg 0x50 0x10 0xAB) := by decide
theorem test_decode_readByte :
    decode 0b11011110_10101101_01001000_00000100#32 = .command (.readByte 0x48 0xAD 0xDE) := by decide
theorem test_decode_readReg :
    decode 0b11111111_00010000_01010000_00000101#32 = .command (.readReg 0x50 0x10 0xFF) := by decide
/-- Bit 15 set (95_test_vectors.md section 3.1, 0x0000D001). -/
theorem test_decode_z1 : decode 0x0000D001 = .illegal .reservedBits := by decide
/-- Bits 7:3 not zero (95_test_vectors.md section 3.1, 0x00005081). -/
theorem test_decode_z0 : decode 0x00005081 = .illegal .reservedBits := by decide
/-- `OP` = 7 (95_test_vectors.md section 3.1). -/
theorem test_decode_op7 : decode 0x00005007 = .illegal .noSuchOperation := by decide
theorem test_encode_writeMulti : encode (.writeMulti 0x7F 0xFF 0) = 0x00FF7F02 := by decide

/-! ### Small states -/

/-- A command in flight at a position, with `DELAY_UNITS` = 1, one answer of the Data line, payload bytes
0x00, 0xAF, 0xA5, and the lines where the position puts them. -/
def inFlight (i : Instr) (p : Phase) (k : Nat) (sample : Level) : State where
  block :=
    let b := { Block.reset.accept i with phase := p, k := BitVec.ofNat 6 k }
    { b with scl := b.levels.1, sda := b.levels.2 }
  env := { dataIn := [sample], sampleNo := 0, host := [], payload := [(1, 0xAF), (2, 0xA5)] }
  delay := 0

/-- The same with other registers. -/
def tweaked (s : State) (f : Block → Block) : State := { s with block := f s.block }

/-- Something of the block after one clock cycle. -/
def after {α : Type} (s : State) (f : Block → α) : Option α :=
  match step s with
  | .next t => some (f t.block)
  | .fault _ => none
  | .refused _ => none

/-- The idle block with a word on the command port. -/
def presented (w : Word) : State :=
  { State.reset with env := { State.reset.env with
    host := [{ rstN := true, cmdValid := true, cmdWord := w, plWrite := none }] } }

def exampleWrite : Instr := .writeByte 0x50 0x00 0xA5
def exampleMulti : Instr := .writeMulti 0x3C 0x03 0x00
def exampleReg : Instr := .writeReg 0x50 0x10 0xAB
def exampleRead : Instr := .readByte 0x48 0x00 0x00
def exampleReadReg : Instr := .readReg 0x50 0x10 0x00

/-! ### One step of each command, against the step tables of 95_test_vectors.md section 3.8 -/

/-- Section 3.8, step 0 of ReadReg: acceptance; program 4, command 3: an ignored field is latched too. -/
theorem test_accept :
    after (presented 0xA5FF5001) (fun b => (b.phase, b.k, b.op, b.a, b.rl, b.dat)) =
      some (.start, 0, 1, 0x50, 0xFF, 0xA5) := by decide

/-- Program 4, command 1: the all-zero word is refused. -/
theorem test_refuse :
    after (presented 0x00000000) (fun b => (b.phase, b.ill, b.rspv, b.err)) = some (.idle, true, true, false) := by
  decide

/-- P1: the address byte of WriteByte(0x50, …) is 0xA0. -/
theorem test_writeByte_address :
    after (inFlight exampleWrite .start 7 true) (fun b => (b.phase, b.k, b.shreg)) = some (.addr, 0, 0xA0) := by decide

/-- P2: the address not acknowledged at the last allowed sample (DU = 1, the third): Error, and the Stop. -/
theorem test_writeByte_abort :
    after (tweaked (inFlight exampleWrite .addr 61 true) (fun b => { b with pollCnt := 2 }))
      (fun b => (b.phase, b.k, b.err, b.ackf, b.pollCnt)) = some (.stop, 0, true, false, 2) := by decide

/-- Section 3.8, step 72 of WriteMultiBytes: the first payload byte, 0x00, is loaded. -/
theorem test_writeMulti_first :
    after (tweaked (inFlight exampleMulti .addr 63 true) (fun b => { b with ackf := true, shreg := 0x78 }))
      (fun b => (b.phase, b.k, b.shreg, b.byteI)) = some (.data, 0, 0x00, 0) := by decide

/-- Section 3.8, step 136 of WriteMultiBytes: the next payload byte, 0xAF, with `BYTE_I` = 1. -/
theorem test_writeMulti_next :
    after (tweaked (inFlight exampleMulti .data 63 true) (fun b => { b with ackf := true }))
      (fun b => (b.phase, b.k, b.shreg, b.byteI)) = some (.data, 0, 0xAF, 1) := by decide

/-- Vector 11: after the register byte the data byte 0xAB. -/
theorem test_writeReg_data :
    after (tweaked (inFlight exampleReg .data 63 true) (fun b => { b with ackf := true }))
      (fun b => (b.phase, b.k, b.shreg, b.byteI)) = some (.data, 0, 0xAB, 1) := by decide

/-- Vector 14: ReadByte(0x48) sends 0x91. -/
theorem test_readByte_address :
    after (inFlight exampleRead .start 7 true) (fun b => (b.phase, b.k, b.shreg)) = some (.addr, 0, 0x91) := by decide

/-- Section 3.5, `SHREG` during R(0xA5): the third sample, high, makes 0x80 into 0xA0. -/
theorem test_readByte_sample :
    after (tweaked (inFlight exampleRead .data 20 true) (fun b => { b with shreg := 0x80 }))
      (fun b => (b.k, b.shreg)) = some (21, 0xA0) := by decide

/-- Section 3.8, step 136 of ReadReg: the second Start follows the register byte. -/
theorem test_readReg_rstart :
    after (tweaked (inFlight exampleReadReg .data 63 true) (fun b => { b with ackf := true }))
      (fun b => (b.phase, b.k, b.rs)) = some (.rstart, 0, false) := by decide

/-- Section 3.8, step 272 of ReadReg: the byte received goes to `RXDATA`, and the Stop. -/
theorem test_readReg_received :
    after (tweaked (inFlight exampleReadReg .data 63 true) (fun b => { b with rs := true, shreg := 0xAB }))
      (fun b => (b.phase, b.k, b.rxdata)) = some (.stop, 0, 0xAB) := by decide

/-- Section 3.8, step 280 of ReadReg: the Stop is complete, the response. -/
theorem test_stop_response :
    after (inFlight exampleReadReg .stop 7 true) (fun b => (b.phase, b.rspv, b.scl, b.sda)) =
      some (.idle, true, true, true) := by decide

/-- Section 3.2, DU = 3: the second cycle of a wait. -/
theorem test_wait_counts :
    after { tweaked (inFlight exampleWrite .start 1 true) (fun b => { b with hbCnt := 1 }) with delay := 2 }
      (fun b => (b.k, b.hbCnt)) = some (1, 2) := by decide

/-- Section 3.1: 0x00033C02 as the first instruction after reset, through the host's two entries. -/
theorem test_fetchWord :
    decodeTableWord 32 0x00033C02 = some exampleMulti ∧
      after (State.reset.withFetchWord 32 0x00033C02) (fun b => (b.phase, b.op, b.rl)) = some (.start, 2, 3) := by
  decide

/-! ### The event level, against the traces of 95_test_vectors.md section 3 -/

/-- Section 3.4, row 7 (`E[H H H L; H]`, B = 3): the low level comes one sample too late. -/
theorem test_poll_late :
    pollRun (fun n => decide (n ≠ 3)) 3 0 =
      { trace := [.sampleHigh, .sampleHigh, .sampleHigh], acked := false, nextSample := 3 } := by decide

/-- Section 3.4, row 5 (`E[H H L; H]`, B = 3): low on the last allowed sample is an acknowledgment. -/
theorem test_poll_last :
    pollRun (fun n => decide (n ≠ 2)) 3 0 =
      { trace := [.sampleHigh, .sampleHigh, .sampleLow], acked := true, nextSample := 3 } := by decide

/-- Section 3.5: samples H L H L L H L H give 0xA5. -/
theorem test_receive_value :
    receiveValue (fun n => decide (n ∈ [0, 2, 5, 7])) 0 = 0xA5 := by decide

/-- Vector 6: the second data byte is not acknowledged, so the third is never sent. -/
theorem test_multi_tokens :
    (commandRun 3 (fun n => decide (2 ≤ n)) (fun i => if i = 1 then 0xAF else if i = 2 then 0xA5 else 0) 0
      exampleMulti).tokens = [.start, .sent 0x78 true, .sent 0x00 true, .sent 0xAF false, .stop] := by decide

/-- Property P7 and rule R71, on ReadByte(0x48) not acknowledged: the monitor sees the address byte 0x91 between one
Start and one Stop. -/
theorem test_monitor_command :
    monitorOf (commandRun 3 (fun _ => true) (fun _ => 0) 0 exampleRead).trace =
      [.start, .bit true, .bit false, .bit false, .bit true, .bit false, .bit false, .bit false, .bit true, .bit true,
        .stop] := by decide

/-! ### Witnesses: the hypotheses of each statement met together, at the ends of each clause's range -/

theorem witness_EncodeDecode : decode 0xA5FF5001 = .command (.writeByte 0x50 0xFF 0xA5) := by decide

theorem witness_DecodingInFull :
    (0x00008001 : Word) &&& 0x000080FF ∉ ([1, 2, 3, 4, 5] : List Word) ∧
    ((0xFFFF7F01 : Word) &&& 0x000080FF ∈ ([1, 2, 3, 4, 5] : List Word) ∧ (0xFFFF7F01 : Word).extractLsb' 0 3 = 1) ∧
    ((0x00000002 : Word) &&& 0x000080FF ∈ ([1, 2, 3, 4, 5] : List Word) ∧ (0x00000002 : Word).extractLsb' 0 3 = 2) ∧
    ((0x00000003 : Word) &&& 0x000080FF ∈ ([1, 2, 3, 4, 5] : List Word) ∧ (0x00000003 : Word).extractLsb' 0 3 = 3) ∧
    ((0x00000004 : Word) &&& 0x000080FF ∈ ([1, 2, 3, 4, 5] : List Word) ∧ (0x00000004 : Word).extractLsb' 0 3 = 4) ∧
    ((0xFFFF7F05 : Word) &&& 0x000080FF ∈ ([1, 2, 3, 4, 5] : List Word) ∧ (0xFFFF7F05 : Word).extractLsb' 0 3 = 5) := by
  decide

theorem witness_IgnoredFieldsSameCommand :
    decode 0xA5005001 = .command (.writeByte 0x50 0x00 0xA5) ∧
      (0xA5005001 : Word) &&& 0xFF00FFFF = 0xA5FF5001 &&& 0xFF00FFFF := by decide

theorem witness_busy : (inFlight exampleWrite .start 0 true).block.phase ≠ .idle := by decide

theorem witness_ResetPin :
    ({ State.reset with env := { State.reset.env with
      host := [{ rstN := false, cmdValid := true, cmdWord := 0xA5005001, plWrite := none }] } } : State).hostNow.rstN
      = false := by decide

theorem witness_StepRunsPresented :
    (presented 0xA5005001).hostNow.rstN = true ∧ (presented 0xA5005001).block.phase = .idle ∧
      (presented 0xA5005001).hostNow.cmdValid = true ∧
      decode (presented 0xA5005001).hostNow.cmdWord = .command exampleWrite := by decide

theorem witness_StepRunsInFlight :
    (inFlight exampleReadReg .rstart 0 true).hostNow.rstN = true ∧
      (inFlight exampleReadReg .rstart 0 true).block.phase ≠ .idle ∧
      (inFlight exampleReadReg .rstart 0 true).block.command = some exampleReadReg := by decide

theorem witness_FetchWordRuns : decodeTableWord 32 0xA5005001 = some exampleWrite := by decide

theorem witness_IllegalWordRefused :
    (presented 0x00005007).hostNow.rstN = true ∧ (presented 0x00005007).block.phase = .idle ∧
      (presented 0x00005007).hostNow.cmdValid = true ∧
      decode (presented 0x00005007).hostNow.cmdWord = .illegal .noSuchOperation := by decide

theorem witness_IdleCycle :
    State.reset.hostNow.rstN = true ∧ State.reset.block.phase = .idle ∧ State.reset.hostNow.cmdValid = false := by
  decide

theorem witness_AcceptanceCompletes : State.reset.block.phase = .idle := by decide

/-- A wait of a command with `DELAY_UNITS` = 3, in its first cycle. -/
def waiting : State := { inFlight exampleWrite .start 1 true with delay := 2 }

theorem witness_WaitHolds :
    waiting.block.phase ≠ .idle ∧ waiting.block.command = some exampleWrite ∧
      waiting.block.row waiting.block.receives = some (.inner .wait) ∧ (MicroRow.inner .wait).op = .wait ∧
      ¬ waiting.lastWaitCycle := by
  refine ⟨by decide, by decide, by decide, rfl, ?_⟩
  unfold State.lastWaitCycle
  decide

/-- The wait that ends the first Start, with `DELAY_UNITS` = 3, in its first cycle. -/
def waitingLast : State := { inFlight exampleWrite .start 7 true with delay := 2 }

theorem witness_WaitTakesDelayUnits :
    (waiting.block.phase ≠ .idle ∧ waiting.block.command = some exampleWrite ∧
      waiting.block.row waiting.block.receives = some (.inner .wait) ∧ (MicroRow.inner .wait).op = .wait ∧
      waiting.block.hbCnt = 0) ∧
    (0 < waiting.du ∧ HostHolds 0 waiting) ∧ (2 < waiting.du ∧ HostHolds 2 waiting) ∧
    (HostHolds waiting.du waiting ∧ (MicroRow.inner .wait).last = false) := by
  refine ⟨by decide, ⟨by decide, ?_⟩, ⟨by decide, ?_⟩, ?_, rfl⟩ <;> intro h hm <;>
    simp [waiting, inFlight] at hm

theorem witness_WaitTakesDelayUnits_completes :
    (waitingLast.block.phase ≠ .idle ∧ waitingLast.block.command = some exampleWrite ∧
      waitingLast.block.row waitingLast.block.receives = some (.final .wait) ∧ waitingLast.block.hbCnt = 0) ∧
    HostHolds waitingLast.du waitingLast ∧
    ∃ t, exec exampleWrite { waitingLast with
      block := { waitingLast.block with hbCnt := BitVec.ofNat 16 (waitingLast.du - 1) } } = .next t := by
  refine ⟨by decide, ?_, _, rfl⟩
  intro h hm
  simp [waitingLast, inFlight] at hm

theorem witness_PortsShowRegisters :
    State.reset.hostNow.rstN = true ∧
    ((inFlight exampleWrite .start 0 true).hostNow.rstN = true ∧ (inFlight exampleWrite .start 0 true).block.phase ≠ .idle) ∧
    ({ inFlight exampleWrite .stop 3 true with env := { State.reset.env with
      host := [{ rstN := false, cmdValid := false, cmdWord := 0, plWrite := none }] } } : State).hostNow.rstN
      = false := by decide

theorem witness_StartRows :
    ((inFlight exampleWrite .start 0 true).block.phase = .start ∧ (inFlight exampleWrite .start 0 true).block.k = 0) ∧
    ((inFlight exampleReadReg .rstart 2 true).block.phase = .rstart ∧
      (inFlight exampleReadReg .rstart 2 true).block.k = 2) ∧
    (inFlight exampleWrite .start 4 true).block.k = 4 ∧ (inFlight exampleWrite .start 6 true).block.k = 6 ∧
    (inFlight exampleWrite .start 1 true).block.k = 1 ∧ (inFlight exampleWrite .start 5 true).block.k = 5 := by decide

theorem witness_StopRows :
    ((inFlight exampleWrite .stop 0 true).block.phase = .stop ∧ (inFlight exampleWrite .stop 0 true).block.k = 0) ∧
    (inFlight exampleWrite .stop 2 true).block.k = 2 ∧ (inFlight exampleWrite .stop 4 true).block.k = 4 ∧
    (inFlight exampleWrite .stop 6 true).block.k = 6 ∧ (inFlight exampleWrite .stop 3 true).block.k = 3 := by decide

/-- With `DELAY_UNITS` = 1 every wait cycle is the last. -/
theorem witness_lastWaitCycle : (inFlight exampleWrite .start 1 true).lastWaitCycle := by
  unfold State.lastWaitCycle
  decide

theorem witness_SendBitRows :
    ((inFlight exampleWrite .addr 0 true).block.command = some exampleWrite ∧
      (inFlight exampleWrite .addr 0 true).block.sending ∧ (inFlight exampleWrite .addr 0 true).block.k.toNat = 7 * 0) ∧
    ((inFlight exampleReadReg .data 51 true).block.command = some exampleReadReg ∧
      (inFlight exampleReadReg .data 51 true).block.sending ∧
      (inFlight exampleReadReg .data 51 true).block.k.toNat = 7 * 7 + 2) ∧
    (inFlight exampleWrite .addr 53 true).block.k.toNat = 7 * 7 + 4 ∧
    (inFlight exampleWrite .addr 55 true).block.k.toNat = 7 * 7 + 6 :=
  ⟨⟨by decide, .inl rfl, by decide⟩, ⟨by decide, .inr ⟨rfl, by decide⟩, by decide⟩, by decide, by decide⟩

theorem witness_AckSlotRows :
    (inFlight exampleWrite .addr 56 true).block.k = 56 ∧ (inFlight exampleWrite .addr 57 true).block.k = 57 ∧
    (inFlight exampleWrite .addr 60 true).block.k = 60 ∧ (inFlight exampleWrite .addr 58 true).block.k = 58 ∧
    (inFlight exampleWrite .addr 62 true).block.k = 62 ∧ (inFlight exampleWrite .addr 62 true).block.sending :=
  ⟨by decide, by decide, by decide, by decide, by decide, .inl rfl⟩

theorem witness_PollSample :
    ((inFlight exampleWrite .addr 61 false).block.command = some exampleWrite ∧
      (inFlight exampleWrite .addr 61 false).block.sending ∧ (inFlight exampleWrite .addr 61 false).block.k = 61 ∧
      (inFlight exampleWrite .addr 61 false).env.dataLevel = false) ∧
    ((inFlight exampleWrite .addr 61 true).env.dataLevel = true ∧
      (inFlight exampleWrite .addr 61 true).block.pollCnt.toNat + 1 ≠ 3 * (inFlight exampleWrite .addr 61 true).du) ∧
    ((tweaked (inFlight exampleWrite .addr 61 true) (fun b => { b with pollCnt := 2 })).block.pollCnt.toNat + 1 =
      3 * (tweaked (inFlight exampleWrite .addr 61 true) (fun b => { b with pollCnt := 2 })).du) :=
  ⟨⟨by decide, .inl rfl, by decide, by decide⟩, by decide, by decide⟩

theorem witness_ReceiveRows :
    ((inFlight exampleRead .data 0 true).block.command = some exampleRead ∧
      (inFlight exampleRead .data 0 true).block.phase = .data ∧ (inFlight exampleRead .data 0 true).block.receives = true ∧
      (inFlight exampleRead .data 0 true).block.k = 0) ∧
    (inFlight exampleRead .data 50 true).block.k.toNat = 7 * 7 + 1 ∧
    (inFlight exampleRead .data 4 true).block.k.toNat = 7 * 0 + 4 ∧
    (inFlight exampleRead .data 6 true).block.k.toNat = 7 * 0 + 6 ∧
    (inFlight exampleRead .data 55 true).block.k.toNat = 7 * 7 + 6 ∧
    (inFlight exampleRead .data 57 true).block.k = 57 ∧ (inFlight exampleRead .data 59 true).block.k = 59 ∧
    (inFlight exampleRead .data 61 true).block.k = 61 ∧ (inFlight exampleRead .data 56 true).block.k.toNat = 7 * 7 + 7 := by
  decide

/-- A command at the last micro-op of a SendByte that was acknowledged. -/
def sent (i : Instr) (p : Phase) : State := tweaked (inFlight i p 63 true) (fun b => { b with ackf := true })

theorem witness_WriteByteTransitions :
    (inFlight exampleWrite .start 7 true).block.phase = .start ∧ (inFlight exampleWrite .start 7 true).block.k = 7 ∧
    ((sent exampleWrite .addr).block.phase = .addr ∧ (sent exampleWrite .addr).block.k = 63 ∧
      (sent exampleWrite .addr).block.ackf = true) ∧
    (sent exampleWrite .data).block.phase = .data := by decide

theorem witness_WriteMultiTransitions :
    ((sent (.writeMulti 0x3C 0 0) .addr).block.phase = .addr ∧ (sent (.writeMulti 0x3C 0 0) .addr).block.rl = 0) ∧
    ((sent exampleMulti .addr).block.k = 63 ∧ (sent exampleMulti .addr).block.rl ≠ 0) ∧
    ((sent exampleMulti .data).block.byteI.toNat + 1 < (sent exampleMulti .data).block.rl.toNat) ∧
    ((tweaked (sent exampleMulti .data) (fun b => { b with byteI := 1 })).block.byteI.toNat + 1 < 3) ∧
    (tweaked (sent exampleMulti .data) (fun b => { b with byteI := 2 })).block.rl.toNat ≤
      (tweaked (sent exampleMulti .data) (fun b => { b with byteI := 2 })).block.byteI.toNat + 1 := by decide

theorem witness_WriteRegTransitions :
    ((sent exampleReg .data).block.phase = .data ∧ (sent exampleReg .data).block.k = 63 ∧
      (sent exampleReg .data).block.ackf = true ∧ (sent exampleReg .data).block.byteI = 0) ∧
    (tweaked (sent exampleReg .data) (fun b => { b with byteI := 1 })).block.byteI = 1 := by decide

theorem witness_ReadByteTransitions :
    (sent exampleRead .addr).block.ackf = true ∧ (sent exampleRead .data).block.phase = .data ∧
      (sent exampleRead .data).block.k = 63 := by decide

theorem witness_ReadRegTransitions :
    ((inFlight exampleReadReg .rstart 7 true).block.phase = .rstart ∧
      (inFlight exampleReadReg .rstart 7 true).block.k = 7) ∧
    (sent exampleReadReg .addr).block.rs = false ∧
    (tweaked (sent exampleReadReg .addr) (fun b => { b with rs := true })).block.rs = true ∧
    ((sent exampleReadReg .data).block.rs = false ∧ (sent exampleReadReg .data).block.ackf = true) ∧
    (tweaked (sent exampleReadReg .data) (fun b => { b with rs := true })).block.phase = .data := by decide

theorem witness_StopResponds :
    (inFlight exampleWrite .stop 7 true).block.phase = .stop ∧ (inFlight exampleWrite .stop 7 true).block.k = 7 := by
  decide

theorem witness_WritesFrame :
    exampleWrite.op = 1 ∧ ∃ t, exec exampleWrite (inFlight exampleWrite .addr 0 true) = .next t := ⟨rfl, _, rfl⟩

theorem witness_ReadsFrame :
    exampleReadReg.op = 5 ∧ ∃ t, exec exampleReadReg (inFlight exampleReadReg .data 63 true) = .next t := ⟨rfl, _, rfl⟩

theorem witness_EventIsLineChange :
    (inFlight exampleWrite .start 6 true).hostNow.rstN = true ∧
      ∃ t, step (inFlight exampleWrite .start 6 true) = .next t := ⟨rfl, _, rfl⟩

theorem witness_StepInputs :
    (inFlight exampleWrite .addr 61 true).env.payload.wf = true ∧
      ∃ t, step (inFlight exampleWrite .addr 61 true) = .next t := ⟨by decide, _, rfl⟩

theorem witness_ResultsAreNotRead : ∃ t, step (inFlight exampleRead .data 0 true) = .next t := ⟨_, rfl⟩

/-- A busy state of some run: the acknowledgment poll after the address byte 0xA0. -/
def polling : State := tweaked (inFlight exampleWrite .addr 61 true) (fun b => { b with shreg := 0xA0 })

/-- The last cycle of the last wait of an acknowledged byte 0xAF of `WRITE_MULTI`, `BYTE_I` = 1, n = 3. -/
def nextByte : State :=
  tweaked (inFlight exampleMulti .data 63 true) (fun b => { b with ackf := true, byteI := 1, shreg := 0xAF })

theorem polling_inv : polling.Inv := by
  refine ⟨?_, by decide⟩
  constructor <;> first | decide | (intro; decide)

theorem nextByte_inv : nextByte.Inv := by
  refine ⟨?_, by decide⟩
  constructor <;> first | decide | (intro; decide)

theorem startRises_inv : (inFlight exampleWrite .start 6 true).Inv := by
  refine ⟨?_, by decide⟩
  constructor <;> first | decide | (intro h; rcases h with h | ⟨h, _⟩ <;> revert h <;> decide)

theorem rstartRises_inv : (inFlight exampleReadReg .rstart 6 true).Inv := by
  refine ⟨?_, by decide⟩
  constructor <;> first | decide | (intro h; rcases h with h | ⟨h, _⟩ <;> revert h <;> decide)

theorem stopRises_inv : (inFlight exampleRead .stop 6 true).Inv := by
  refine ⟨?_, by decide⟩
  constructor <;> first | decide | (intro h; rcases h with h | ⟨h, _⟩ <;> revert h <;> decide)

theorem witness_StepKeepsInv : polling.Inv ∧ ∃ t, step polling = .next t := ⟨polling_inv, _, rfl⟩

theorem witness_InvNeverStops : nextByte.Inv := nextByte_inv

theorem witness_SampleFindsDataReleased : polling.Inv ∧ polling.event = some .sampleHigh :=
  ⟨polling_inv, by decide⟩

theorem witness_ConditionsOnlyInStartAndStop :
    ((inFlight exampleWrite .start 6 true).Inv ∧ (inFlight exampleWrite .start 6 true).hostNow.rstN = true ∧
      ∃ t, step (inFlight exampleWrite .start 6 true) = .next t) ∧
    ((inFlight exampleReadReg .rstart 6 true).Inv ∧ ∃ t, step (inFlight exampleReadReg .rstart 6 true) = .next t) ∧
    ((inFlight exampleRead .stop 6 true).Inv ∧ ∃ t, step (inFlight exampleRead .stop 6 true) = .next t) :=
  ⟨⟨startRises_inv, rfl, _, rfl⟩, ⟨rstartRises_inv, _, rfl⟩, ⟨stopRises_inv, _, rfl⟩⟩

theorem witness_PayloadReads :
    (nextByte.Inv ∧ nextByte.plAddr = some 2 ∧ ∃ t, step nextByte = .next t) ∧
    (polling.Inv ∧ polling.plAddr = none) :=
  ⟨⟨nextByte_inv, by decide, _, rfl⟩, polling_inv, by decide⟩

theorem witness_AddressByteLayout :
    ((inFlight exampleRead .start 7 true).block.phase = .start ∧ (inFlight exampleRead .start 7 true).block.k = 7) ∧
    (inFlight exampleReadReg .rstart 7 true).block.phase = .rstart := by decide

theorem witness_AbortAtFailingByte : (commandRun 3 (fun _ => true) (fun _ => 0) 0 exampleReadReg).ok = false := by
  decide

theorem witness_CommandCycles :
    (1 : Nat) ≤ 1 ∧ ((fun n => decide (2 < n)) 0 = false ∧ (fun n => decide (2 < n)) 1 = false ∧
      (fun n => decide (2 < n)) 2 = false) ∧
    (∀ q : Nat, q ≤ (2 : Byte).toNat → (fun n => decide (2 < n)) (0 + q) = false) ∧
    (∀ q : Nat, q < 3 * 1 → (fun _ : Nat => true) (0 + q) = true) := by decide

theorem witness_EventBound : (3 : Nat) ≤ pollBound (delayUnits 0) := by decide

theorem witness_PollOutcome :
    ((0 : Nat) < 3 ∧ (fun n : Nat => decide (n ≠ 0)) (0 + 0) = false) ∧
    ((2 : Nat) < 3 ∧ (fun n : Nat => decide (n ≠ 2)) (0 + 2) = false ∧
      ∀ r : Nat, r < 2 → (fun n : Nat => decide (n ≠ 2)) (0 + r) = true) ∧
    (∀ q : Nat, q < 3 → (fun _ : Nat => true) (0 + q) = true) := by decide

theorem witness_TransactionsWhenOk :
    (commandRun 3 (fun _ => false) (fun _ => 0) 0 exampleWrite).ok = true ∧
    (commandRun 3 (fun _ => false) (fun _ => 0) 0 exampleMulti).ok = true ∧
    (commandRun 3 (fun _ => false) (fun _ => 0) 0 exampleReg).ok = true ∧
    (commandRun 3 (fun _ => false) (fun _ => 0) 0 exampleRead).ok = true ∧
    (commandRun 3 (fun _ => false) (fun _ => 0) 0 exampleReadReg).ok = true := by decide

theorem witness_CommandRunsToResponse :
    State.reset.block.phase = .idle ∧ State.reset.block.hbCnt = 0 ∧ ∀ n, HostHolds n State.reset := by
  refine ⟨by decide, by decide, ?_⟩
  intro n h hm
  simp [State.reset] at hm

end Sys2Proof.Tests
end

section
/-! PROOFS. The statements of 00_scope.md: a step's event is its line change (rule R10), and a trace is grouped by its
tokens (rule R12). -/

namespace Sys2Proof.Machine

/-- In `IDLE` no event is emitted, also not in the cycle that accepts a command (rules R11, R147). -/
theorem event_idle {s : State} (hp : s.block.phase = .idle) : s.event = none := by
  unfold State.event
  cases s.action <;> simp [Block.row, hp]

/-- The event of a command in flight is that of its row (rule R148). -/
theorem event_inFlight {s : State} {i : Instr} {row : MicroRow} (ha : s.action = .run i)
    (hc : s.block.command = some i) (hr : s.block.row s.block.receives = some row) :
    s.event = row.op.event s.du s.env.dataLevel s.block := by
  simp only [State.event, ha, planOf_receives hc, hr]

/-- After its micro-op a row leaves the lines alone, whether the position holds, K moves on or the command's transition
is made (rules R148, R149). -/
theorem rowStep_lines {i : Instr} {du : Nat} {l : Level} {pay : Byte → Byte} {row : MicroRow} {b c : Block}
    (h : (planOf i).rowStep du l pay row b = some c) :
    ∃ b' f, row.op.run du l b = (b', f) ∧ c.scl = b'.scl ∧ c.sda = b'.sda := by
  rcases Plan.rowStep_some h with hold | ⟨b', done, -, rfl⟩ | ⟨b', b'', leaves, after, rfl⟩
  · exact ⟨c, _, hold, rfl, rfl⟩
  · exact ⟨b', _, done, rfl, rfl⟩
  · obtain ⟨hscl, hsda, -⟩ := after_frame after
    rcases leaves with ⟨done, -⟩ | giveUp
    · exact ⟨b', _, done, hscl, hsda⟩
    · exact ⟨b', _, giveUp, hscl, hsda⟩

/-- Settles O34: in `IDLE` there is no event and no line moves; in flight the row's micro-op moves the lines as its event
says, and nothing after it in the step moves them. -/
theorem eventIsLineChange : Obligations.EventIsLineChange := by
  intro s t hrst hstep
  rcases step_cases hstep with ⟨-, hreset, -⟩ | ⟨-, -, hp, rfl⟩ | ⟨-, -, hp, rfl⟩ | ⟨i, -, -, hp, rfl⟩ |
    ⟨i, row, b, ha, -, -, hc, hr, hrow, rfl⟩
  · simp [hrst] at hreset
  · simp [event_idle hp]
  · simp [event_idle hp]
  · simp [event_idle hp]
  · obtain ⟨b', f, hrun, hscl, hsda⟩ := rowStep_lines hrow
    rw [event_inFlight ha hc hr]
    show (b.scl, b.sda) = _
    rw [hscl, hsda]
    exact MicroOp.run_lines hrun

/-- The trace is a concatenation of blocks that the tokens name one by one (rule R12). -/
def Grouped (bound : Nat) (tokens : List Token) (trace : Trace) : Prop :=
  ∃ blocks : List Trace, trace = blocks.flatten ∧ List.Forall₂ (Token.Names bound) tokens blocks

theorem Grouped.nil (bound : Nat) : Grouped bound [] [] := ⟨[], rfl, .nil⟩

/-- One more block in front. -/
theorem Grouped.cons {bound : Nat} {tok : Token} {block tr : Trace} {toks : List Token}
    (hb : Token.Names bound tok block) (h : Grouped bound toks tr) : Grouped bound (tok :: toks) (block ++ tr) := by
  obtain ⟨blocks, rfl, hs⟩ := h
  exact ⟨block :: blocks, rfl, .cons hb hs⟩

/-- A token of one block. -/
theorem Grouped.single {bound : Nat} {tok : Token} {block : Trace} (hb : Token.Names bound tok block) :
    Grouped bound [tok] block := by
  simpa using Grouped.cons hb (.nil bound)

/-- Grouped traces follow each other. -/
theorem Grouped.append {bound : Nat} {tr tr' : Trace} {toks toks' : List Token} (h : Grouped bound toks tr)
    (h' : Grouped bound toks' tr') : Grouped bound (toks ++ toks') (tr ++ tr') := by
  obtain ⟨blocks, rfl, hs⟩ := h
  obtain ⟨blocks', rfl, hs'⟩ := h'
  exact ⟨blocks ++ blocks', List.flatten_append.symm, List.rel_append hs hs'⟩

/-- Primitives run in order leave a trace grouped by their tokens, also when a NotAcknowledged cuts them short
(rules R140, R173). -/
theorem bodyRun_grouped (bound : Nat) (smp : Nat → Level) (body : List Prim) (p : Nat) :
    Grouped bound (bodyRun bound smp body p).tokens (bodyRun bound smp body p).trace := by
  induction body generalizing p with
  | nil => exact .nil bound
  | cons prim rest ih =>
    cases prim with
    | start => exact .cons rfl (ih p)
    | receive => exact .cons (receive_names bound smp p) (ih (p + 8))
    | send v =>
      have names := sendByte_names bound smp p v
      unfold bodyRun
      split <;> rename_i acked
      · rw [acked] at names
        exact .cons names (ih _)
      · rw [Bool.not_eq_true] at acked
        rw [acked] at names
        exact .single names

/-- Settles O55: the body's primitives leave a grouped trace, by induction on them, and the Stop is one block more. -/
theorem traceIsItsTokens : Obligations.TraceIsItsTokens := by
  intro smp pay bound p i
  have stop : Grouped bound [.stop] stopTrace := .single rfl
  exact (bodyRun_grouped bound smp (commandBody pay i) p).append stop

end Sys2Proof.Machine
end

section
/-! PROOFS. The statements of 10_state.md about the registers alone: their values at reset, the idle cycle, the output
ports, the inputs of a step, and the result registers no step reads. -/

namespace Sys2Proof.Machine

/-! ### Reset, the idle cycle, the ports -/

/-- Settles O9: `Block.reset` is the table of rule R43. -/
theorem resetValues : Obligations.ResetValues := rfl

/-- Settles O15: the cycle is spent on `Block.idleCycle`, and `IDLE` emits no event. -/
theorem idleCycle : Obligations.IdleCycle := by
  intro s hrst hp hvalid
  exact ⟨step_idle (action_idle hrst hp hvalid), event_idle hp⟩

/-- Without reset the ports look at the block's own registers. -/
theorem State.registers_run {s : State} (h : s.hostNow.rstN = true) : s.registers = s.block := by
  simp [State.registers, h]

/-- Under reset the ports look at the reset values (rule R190). -/
theorem State.registers_reset {s : State} (h : s.hostNow.rstN = false) : s.registers = Block.reset := by
  simp [State.registers, h]

/-- Settles O54: every port is a field of `State.registers`, which is the block or, under reset, the reset values. -/
theorem portsShowRegisters : Obligations.PortsShowRegisters := by
  intro s
  constructor
  · intro hrst
    simp [State.cmdReady, State.rspValid, State.rspErr, State.rspIll, State.rspData, State.sclO, State.sdaO,
      State.registers_run hrst]
  · intro hrst
    simp [State.cmdReady, State.rspValid, State.rspErr, State.rspIll, State.rspData, State.sclO, State.sdaO,
      State.registers_reset hrst, Block.reset]

/-! ### The inputs of a step -/

/-- A row leaves the host's cycles and the payload memory alone (rules R45, R56). -/
theorem MicroRow.useEnv_frame (row : MicroRow) (e : Env) :
    (row.useEnv e).host = e.host ∧ (row.useEnv e).payload = e.payload := by
  unfold MicroRow.useEnv
  split <;> exact ⟨rfl, rfl⟩

/-- What a step makes of the inputs: the host's cycle is used up, its write has landed, and the row in flight, if there
is one, takes a sample or does not. -/
theorem step_env {s t : State} (h : step s = .next t) :
    t.delay = s.delay ∧ (t.env = s.beginCycle.env ∧ s.event ≠ some .sampleLow ∧ s.event ≠ some .sampleHigh ∨
      ∃ row : MicroRow, t.env = row.useEnv s.beginCycle.env ∧
        (row.op.samples = true ↔ s.event = some .sampleLow ∨ s.event = some .sampleHigh)) := by
  rcases step_cases h with ⟨ha, -, rfl⟩ | ⟨-, -, hp, rfl⟩ | ⟨-, -, hp, rfl⟩ | ⟨i, -, -, hp, rfl⟩ |
    ⟨i, row, b, ha, -, -, hc, hr, -, rfl⟩
  · exact ⟨rfl, .inl ⟨rfl, by simp [State.event, ha]⟩⟩
  · exact ⟨rfl, .inl ⟨rfl, by simp [event_idle hp]⟩⟩
  · exact ⟨rfl, .inl ⟨rfl, by simp [event_idle hp]⟩⟩
  · exact ⟨rfl, .inl ⟨rfl, by simp [event_idle hp]⟩⟩
  · refine ⟨rfl, .inr ⟨row, rfl, ?_⟩⟩
    rw [event_inFlight ha hc hr]
    exact MicroOp.samples_iff_event ..

/-- Settles O35: the block's part of a step uses up a sample at most, so host cycle and payload memory are as
`State.beginCycle` left them. -/
theorem stepInputs : Obligations.StepInputs := by
  intro s t hwf hstep
  have read := s.hostNow.read_store hwf
  obtain ⟨hdelay, ⟨henv, hlow, hhigh⟩ | ⟨row, henv, hsample⟩⟩ := step_env hstep
  · simp only [henv, hlow, hhigh]
    exact ⟨hdelay, rfl, read, rfl, rfl⟩
  · obtain ⟨hhost, hpayload⟩ := row.useEnv_frame s.beginCycle.env
    rw [henv, hhost, hpayload]
    refine ⟨hdelay, rfl, read, ?_⟩
    simp only [← hsample, MicroRow.useEnv]
    split <;> exact ⟨rfl, rfl⟩

/-! ### The result registers are not read -/

/-- The registers but the results `ERR`, `ILL` and `RXDATA`, which are set to their reset values. -/
def Block.withoutResults (b : Block) : Block := { b with err := false, ill := false, rxdata := 0 }

/-- The state but the results. -/
def State.withoutResults (s : State) : State := s.withResults false false 0

/-- A micro-op neither reads nor writes the results. -/
theorem MicroOp.run_withoutResults (du : Nat) (l : Level) (b : Block) (op : MicroOp) :
    op.run du l b.withoutResults = ((op.run du l b).1.withoutResults, (op.run du l b).2) := by
  cases op with
  | wait =>
    by_cases h : b.hbCnt.toNat + 1 = du
    · have h' : b.withoutResults.hbCnt.toNat + 1 = du := h
      rw [MicroOp.run, MicroOp.run, Block.waitCycle_last h, Block.waitCycle_last h']
      rfl
    · have h' : b.withoutResults.hbCnt.toNat + 1 ≠ du := h
      rw [MicroOp.run, MicroOp.run, Block.waitCycle_hold h, Block.waitCycle_hold h']
      rfl
  | poll =>
    cases l with
    | false => rfl
    | true =>
      by_cases h : b.pollCnt.toNat + 1 = pollBound du
      · have h' : b.withoutResults.pollCnt.toNat + 1 = pollBound du := h
        rw [MicroOp.run, MicroOp.run, Block.pollSample_giveUp h, Block.pollSample_giveUp h']
        rfl
      · have h' : b.withoutResults.pollCnt.toNat + 1 ≠ pollBound du := h
        rw [MicroOp.run, MicroOp.run, Block.pollSample_high h, Block.pollSample_high h']
        rfl
  | _ => rfl

/-- A transition writes results and reads none. -/
theorem after_withoutResults (i : Instr) (pay : Byte → Byte) (b : Block) :
    ((planOf i).after pay b.withoutResults).map Block.withoutResults =
      ((planOf i).after pay b).map Block.withoutResults := by
  cases i <;>
    simp only [planOf, writeBytePlan, writeMultiPlan, writeRegPlan, readBytePlan, readRegPlan, writeByteAfter,
      writeMultiAfter, writeRegAfter, readByteAfter, readRegAfter, Block.withoutResults] <;>
    split <;> (repeat' split) <;> rfl

/-- A row of a micro-op table writes results and reads none. -/
theorem rowStep_withoutResults (i : Instr) (du : Nat) (l : Level) (pay : Byte → Byte) (row : MicroRow) (b : Block) :
    ((planOf i).rowStep du l pay row b.withoutResults).map Block.withoutResults =
      ((planOf i).rowStep du l pay row b).map Block.withoutResults := by
  have complete : ∀ (last : Bool) (b : Block),
      ((planOf i).complete pay last b.withoutResults).map Block.withoutResults =
        ((planOf i).complete pay last b).map Block.withoutResults := by
    intro last b
    cases last with
    | false => rfl
    | true =>
      have := congrArg (Option.map (Block.withK 0)) (after_withoutResults i pay b)
      rw [Option.map_map, Option.map_map] at this
      simp only [Plan.complete, if_true, Option.map_map]
      exact this
  unfold Plan.rowStep
  rw [MicroOp.run_withoutResults]
  obtain ⟨c, fate⟩ := row.op.run du l b
  cases fate with
  | hold => rfl
  | done => exact complete _ c
  | giveUp => exact complete _ c

/-- An event shows no result. -/
theorem MicroOp.event_withoutResults (du : Nat) (l : Level) (b : Block) (op : MicroOp) :
    op.event du l b.withoutResults = op.event du l b := by
  cases op with
  | wait =>
    have fate : (b.withoutResults.waitCycle du).2 = (b.waitCycle du).2 :=
      congrArg (·.2) (show b.withoutResults.waitCycle du = _ from MicroOp.run_withoutResults du l b .wait)
    simp only [MicroOp.event, fate]
  | _ => rfl

/-- The position's row does not depend on the results. -/
theorem row_withoutResults (i : Instr) (b : Block) :
    b.withoutResults.row ((planOf i).receives b.withoutResults) = b.row ((planOf i).receives b) := by
  cases i <;> rfl

/-- A state's event shows no result. -/
theorem State.event_withoutResults (s : State) : s.withoutResults.event = s.event := by
  have action : s.withoutResults.action = s.action := rfl
  have block : s.withoutResults.block = s.block.withoutResults := rfl
  unfold State.event
  rw [action, block]
  cases s.action with
  | run i =>
    simp only [row_withoutResults, MicroOp.event_withoutResults]
    rfl
  | _ => rfl

/-- A micro-step outside every table. -/
theorem microStep_noRow {p : Plan} {s : State} (h : s.block.row (p.receives s.block) = none) :
    microStep p s = .fault .noMicroOp := by
  simp [microStep, h]

/-- What a row's cycle makes of the registers its micro-op and transition leave. -/
def State.afterRow (s : State) (row : MicroRow) : Option Block → Host.Outcome State Fault Refusal
  | none => .fault .noTransition
  | some b => .next { s with block := b, env := row.useEnv s.env }

theorem microStep_afterRow {p : Plan} {s : State} {row : MicroRow}
    (h : s.block.row (p.receives s.block) = some row) :
    microStep p s = s.afterRow row (p.rowStep s.du s.env.dataLevel s.pay row s.block) := by
  rw [microStep_row h]
  cases p.rowStep s.du s.env.dataLevel s.pay row s.block <;> rfl

/-- Outside the registers a row's cycle has no results. -/
theorem mapNext_afterRow (s : State) (row : MicroRow) (c : Option Block) :
    mapNext State.withoutResults (s.afterRow row c) = s.afterRow row (c.map Block.withoutResults) := by
  cases c <;> rfl

/-- A clock cycle of a command writes results and reads none. -/
theorem exec_withoutResults (i : Instr) (s : State) :
    mapNext State.withoutResults (exec i s.withoutResults) = mapNext State.withoutResults (exec i s) := by
  by_cases hp : s.block.phase = .idle
  · rw [exec_idle i hp, exec_idle i (s := s.withoutResults) hp]
    rfl
  · rw [exec_busy i hp, exec_busy i (s := s.withoutResults) hp]
    have row := row_withoutResults i s.block
    cases hr : s.block.row ((planOf i).receives s.block) with
    | none =>
      rw [hr] at row
      rw [microStep_noRow hr, microStep_noRow (s := s.withoutResults) row]
    | some r =>
      rw [hr] at row
      rw [microStep_afterRow hr, microStep_afterRow (s := s.withoutResults) row, mapNext_afterRow, mapNext_afterRow]
      exact congrArg (s.afterRow r) (rowStep_withoutResults i s.du s.env.dataLevel s.pay r s.block)

/-- A step writes results and reads none. -/
theorem step_withoutResults (s : State) :
    mapNext State.withoutResults (step s.withoutResults) = mapNext State.withoutResults (step s) := by
  have action : s.withoutResults.action = s.action := rfl
  unfold step
  rw [action]
  cases s.action with
  | run i => exact exec_withoutResults i s.beginCycle
  | _ => rfl

/-- Settles O37: two states that differ in the results only step to states that differ in the results only, since both
step as the state without results does. -/
theorem resultsAreNotRead : Obligations.ResultsAreNotRead := by
  intro s e ill x
  have event : (s.withResults e ill x).event = s.event :=
    (s.withResults e ill x).event_withoutResults.symm.trans s.event_withoutResults
  refine ⟨event, ?_⟩
  intro t hstep
  have same : mapNext State.withoutResults (step (s.withResults e ill x)) = mapNext State.withoutResults (step s) :=
    (step_withoutResults (s.withResults e ill x)).symm.trans (step_withoutResults s)
  rw [hstep] at same
  cases hu : step (s.withResults e ill x) with
  | next u =>
    rw [hu] at same
    have hut : u.withoutResults = t.withoutResults := Host.Outcome.next.inj same
    have results := congrArg (State.withResults t.block.err t.block.ill t.block.rxdata) hut
    exact ⟨u, rfl, results⟩
  | fault f => rw [hu] at same; cases same
  | refused r => rw [hu] at same; cases same

end Sys2Proof.Machine
end

section
/-! PROOFS. The frames of 10_state.md: what a clock cycle of a command leaves unchanged, from what its micro-op and its
transition leave unchanged. -/

namespace Sys2Proof.Machine

/-! ### The rows of rule R149 -/

/-- The rows of the table of rule R149 for a command with this `OP`: from the registers in which a primitive has
completed to those in which the next phase is entered. `pay` reads the payload memory. -/
inductive Transition (pay : Byte → Byte) (op : BitVec 3) (b : Block) : Block → Prop where
  /-- The first Start is over: the address byte, for reading under `READ_BYTE` only. -/
  | address (hp : b.phase = .start) : Transition pay op b (b.enterAddr (op == 4))
  /-- The second Start is over: the address byte for reading. -/
  | secondAddress (hp : b.phase = .rstart) (ho : op = 5) : Transition pay op b b.enterSecondAddr
  /-- A byte was not acknowledged. -/
  | abort (hp : b.phase = .addr ∨ b.phase = .data) (ha : b.ackf = false) : Transition pay op b b.abort
  /-- The address byte for reading was acknowledged. -/
  | receive (hp : b.phase = .addr) (ha : b.ackf = true) (hr : op = 4 ∨ op = 5 ∧ b.rs = true) :
    Transition pay op b b.enterReceive
  /-- The address byte of `WRITE_BYTE` was acknowledged: its data byte. -/
  | dataByte (hp : b.phase = .addr) (ha : b.ackf = true) (ho : op = 1) : Transition pay op b (b.enterSend b.dat)
  /-- The address byte of `WRITE_MULTI` was acknowledged: payload byte 0. -/
  | payloadByte (hp : b.phase = .addr) (ha : b.ackf = true) (ho : op = 2) (hn : b.rl ≠ 0) :
    Transition pay op b (b.enterSend (pay 0))
  /-- The first address byte of `WRITE_REG` or `READ_REG` was acknowledged: the register byte. -/
  | registerByte (hp : b.phase = .addr) (ha : b.ackf = true) (ho : op = 3 ∨ op = 5 ∧ b.rs = false) :
    Transition pay op b (b.enterSend b.rl)
  /-- A payload byte of `WRITE_MULTI` was acknowledged: the next one. -/
  | nextPayloadByte (hp : b.phase = .data) (ha : b.ackf = true) (ho : op = 2) (hn : b.byteI.toNat + 1 < b.rl.toNat) :
    Transition pay op b (b.enterSendAt (b.byteI + 1) (pay (b.byteI + 1)))
  /-- The register byte of `WRITE_REG` was acknowledged: its data byte. -/
  | registerData (hp : b.phase = .data) (ha : b.ackf = true) (ho : op = 3) : Transition pay op b (b.enterSendAt 1 b.dat)
  /-- The last planned byte of a write command was acknowledged. -/
  | allSent (hp : b.phase = .addr ∨ b.phase = .data) (ha : b.ackf = true) (ho : op = 1 ∨ op = 2 ∨ op = 3) :
    Transition pay op b b.enterStop
  /-- The register byte of `READ_REG` was acknowledged: the second Start. -/
  | restart (hp : b.phase = .data) (ha : b.ackf = true) (ho : op = 5) (hr : b.rs = false) :
    Transition pay op b b.enterRstart
  /-- The byte of a read command was received. -/
  | received (hp : b.phase = .data) (hr : op = 4 ∨ op = 5 ∧ b.rs = true) : Transition pay op b b.enterStopReceived
  /-- The Stop is over. -/
  | response (hp : b.phase = .stop) : Transition pay op b b.respond

theorem writeByteAfter_transition {pay : Byte → Byte} {b c : Block} (h : writeByteAfter pay b = some c) :
    Transition pay 1 b c := by
  cases hp : b.phase <;> simp only [writeByteAfter, hp, reduceCtorEq, Option.some.injEq] at h <;> subst h
  case start => exact .address hp
  case addr =>
    cases ha : b.ackf
    · exact .abort (.inl hp) ha
    · exact .dataByte hp ha rfl
  case data =>
    cases ha : b.ackf
    · exact .abort (.inr hp) ha
    · exact .allSent (.inr hp) ha (.inl rfl)
  case stop => exact .response hp

theorem writeMultiAfter_transition {pay : Byte → Byte} {b c : Block} (h : writeMultiAfter pay b = some c) :
    Transition pay 2 b c := by
  cases hp : b.phase <;> simp only [writeMultiAfter, hp, reduceCtorEq, Option.some.injEq] at h <;> subst h
  case start => exact .address hp
  case addr =>
    cases ha : b.ackf
    · exact .abort (.inl hp) ha
    · rw [if_pos rfl]
      split
      · exact .allSent (.inl hp) ha (.inr (.inl rfl))
      · exact .payloadByte hp ha rfl ‹_›
  case data =>
    cases ha : b.ackf
    · exact .abort (.inr hp) ha
    · rw [if_pos rfl]
      split
      · exact .nextPayloadByte hp ha rfl ‹_›
      · exact .allSent (.inr hp) ha (.inr (.inl rfl))
  case stop => exact .response hp

theorem writeRegAfter_transition {pay : Byte → Byte} {b c : Block} (h : writeRegAfter pay b = some c) :
    Transition pay 3 b c := by
  cases hp : b.phase <;> simp only [writeRegAfter, hp, reduceCtorEq, Option.some.injEq] at h
  case start => exact h ▸ .address hp
  case addr =>
    cases ha : b.ackf <;> rw [ha] at h <;> subst h
    · exact .abort (.inl hp) ha
    · exact .registerByte hp ha (.inl rfl)
  case data =>
    cases ha : b.ackf <;> rw [ha] at h
    · cases h
      exact .abort (.inr hp) ha
    · rw [if_pos rfl] at h
      split at h
      · cases h
        exact .registerData hp ha rfl
      · split at h <;> cases h
        exact .allSent (.inr hp) ha (.inr (.inr rfl))
  case stop => exact h ▸ .response hp

theorem readByteAfter_transition {pay : Byte → Byte} {b c : Block} (h : readByteAfter pay b = some c) :
    Transition pay 4 b c := by
  cases hp : b.phase <;> simp only [readByteAfter, hp, reduceCtorEq, Option.some.injEq] at h <;> subst h
  case start => exact .address hp
  case addr =>
    cases ha : b.ackf
    · exact .abort (.inl hp) ha
    · exact .receive hp ha (.inl rfl)
  case data => exact .received hp (.inl rfl)
  case stop => exact .response hp

theorem readRegAfter_transition {pay : Byte → Byte} {b c : Block} (h : readRegAfter pay b = some c) :
    Transition pay 5 b c := by
  cases hp : b.phase <;> simp only [readRegAfter, hp, reduceCtorEq, Option.some.injEq] at h <;> subst h
  case start => exact .address hp
  case rstart => exact .secondAddress hp rfl
  case addr =>
    cases ha : b.ackf
    · exact .abort (.inl hp) ha
    · cases hr : b.rs
      · exact .registerByte hp ha (.inr ⟨rfl, hr⟩)
      · exact .receive hp ha (.inr ⟨rfl, hr⟩)
  case data =>
    cases hr : b.rs
    · cases ha : b.ackf
      · exact .abort (.inr hp) ha
      · exact .restart hp ha rfl hr
    · exact .received hp (.inr ⟨rfl, hr⟩)
  case stop => exact .response hp

/-- A command's own transitions are rows of rule R149 under its `OP`. -/
theorem after_transition {i : Instr} {pay : Byte → Byte} {b c : Block} (h : (planOf i).after pay b = some c) :
    Transition pay i.op b c := by
  cases i with
  | writeByte => exact writeByteAfter_transition h
  | writeMulti => exact writeMultiAfter_transition h
  | writeReg => exact writeRegAfter_transition h
  | readByte => exact readByteAfter_transition h
  | readReg => exact readRegAfter_transition h

/-- Which commands receive in `DATA` (rule R146). -/
theorem planOf_receives_iff {i : Instr} {b : Block} :
    (planOf i).receives b = true ↔ i.op = 4 ∨ i.op = 5 ∧ b.rs = true := by
  cases i <;>
    simp [planOf, writeBytePlan, writeMultiPlan, writeRegPlan, readBytePlan, readRegPlan, Instr.op]

/-! ### What a transition changes -/

section
variable {pay : Byte → Byte} {op : BitVec 3} {b c : Block}

/-- A byte that was sent and not acknowledged leads to the abort (rules R149, R173). -/
theorem Transition.eq_abort (h : Transition pay op b c) (ha : b.ackf = false)
    (hs : b.phase = .addr ∨ b.phase = .data ∧ ¬ (op = 4 ∨ op = 5 ∧ b.rs = true)) : c = b.abort := by
  cases h with
  | abort => rfl
  | address hp | secondAddress hp | response hp => simp [hp] at hs
  | received hp hr => exact absurd hr (hs.resolve_left (by simp [hp])).2
  | _ => exact absurd ‹b.ackf = true› (by simp [ha])

theorem Transition.err_change (h : Transition pay op b c) (hc : c.err ≠ b.err) :
    c.err = true ∧ c.phase = .stop ∧ c.ackf = false := by
  cases h with
  | abort _ ha => exact ⟨rfl, rfl, ha⟩
  | _ => exact absurd rfl hc

theorem Transition.rspv_change (h : Transition pay op b c) (hc : c.rspv ≠ b.rspv) :
    b.phase = .stop ∧ c.phase = .idle := by
  cases h with
  | response hp => exact ⟨hp, rfl⟩
  | _ => exact absurd rfl hc

theorem Transition.byteI_change (h : Transition pay op b c) (hc : c.byteI ≠ b.byteI) :
    b.phase = .data ∧ (op = 2 ∨ op = 3) := by
  cases h with
  | nextPayloadByte hp _ ho => exact ⟨hp, .inl ho⟩
  | registerData hp _ ho => exact ⟨hp, .inr ho⟩
  | _ => exact absurd rfl hc

theorem Transition.rs_change (h : Transition pay op b c) (hc : c.rs ≠ b.rs) :
    b.phase = .rstart ∧ c.rs = true ∧ op = 5 := by
  cases h with
  | secondAddress hp ho => exact ⟨hp, rfl, ho⟩
  | _ => exact absurd rfl hc

theorem Transition.rxdata_change (h : Transition pay op b c) (hc : c.rxdata ≠ b.rxdata) :
    b.phase = .data ∧ c.phase = .stop ∧ c.rxdata = b.shreg ∧ (op = 4 ∨ op = 5) := by
  cases h with
  | received hp hr => exact ⟨hp, rfl, rfl, hr.imp_right And.left⟩
  | _ => exact absurd rfl hc

theorem Transition.shreg_change (h : Transition pay op b c) (hc : c.shreg ≠ b.shreg) :
    b.phase = .start ∨ b.phase = .rstart ∧ op = 5 ∨ b.phase = .addr ∨ b.phase = .data ∧ (op = 2 ∨ op = 3) := by
  cases h with
  | address hp => exact .inl hp
  | secondAddress hp ho => exact .inr (.inl ⟨hp, ho⟩)
  | dataByte hp | payloadByte hp | registerByte hp => exact .inr (.inr (.inl hp))
  | nextPayloadByte hp _ ho => exact .inr (.inr (.inr ⟨hp, .inl ho⟩))
  | registerData hp _ ho => exact .inr (.inr (.inr ⟨hp, .inr ho⟩))
  | _ => exact absurd rfl hc

end

/-! ### What a row changes -/

/-- The rows that write `SHREG` are of ReceiveByte (rules R125, R126, R131). -/
theorem Block.row_receive {b : Block} {r : Bool} {row : MicroRow} (h : b.row r = some row)
    (ho : row.op = .release ∨ ∃ j, row.op = .sampleBit j) : b.phase = .data ∧ r = true := by
  have send : ∀ n : Nat, n < 64 → ¬ ((sendRow n).op = .release ∨ ∃ j, (sendRow n).op = .sampleBit j) := by decide
  unfold Block.row at h
  cases hp : b.phase <;> simp only [hp] at h
  case idle => cases h
  case start | rstart =>
    unfold startRow at h
    split at h <;> cases h <;> simp [MicroRow.inner, MicroRow.final] at ho
  case stop =>
    unfold stopRow at h
    split at h <;> cases h <;> simp [MicroRow.inner, MicroRow.final] at ho
  case addr =>
    cases h
    exact absurd ho (send _ b.k.isLt)
  case data =>
    cases r with
    | true => exact ⟨rfl, rfl⟩
    | false =>
      cases h
      exact absurd ho (send _ b.k.isLt)

section
variable {i : Instr} {du : Nat} {l : Level} {pay : Byte → Byte} {row : MicroRow} {b c : Block}

/-- How a row can end: its micro-op holds the position, or K moves on; or the primitive's last wait is over and the
command makes its transition; or the poll gives up, which is the abort. -/
theorem rowStep_cases (hr : b.row ((planOf i).receives b) = some row)
    (h : (planOf i).rowStep du l pay row b = some c) :
    row.op.run du l b = (c, .hold) ∨
    (∃ b', row.op.run du l b = (b', .done) ∧ row.last = false ∧ c = b'.withK (b'.k + 1)) ∨
    (row.last = true ∧ row.op = .wait ∧ ∃ b', Transition pay i.op (b.withHbCnt 0) b' ∧ c = b'.withK 0) ∨
    (row.op = .poll ∧ c = (b.withAckf false).abort.withK 0) := by
  obtain ⟨poll_place, -, last_place⟩ := Block.row_place hr
  rcases Plan.rowStep_some h with hold | inner | ⟨b', b'', ⟨done, last⟩ | giveUp, after, rfl⟩
  · exact .inl hold
  · exact .inr (.inl inner)
  · obtain ⟨wait, -⟩ := last_place last
    simp only [wait, MicroOp.run, Block.waitCycle] at done
    split at done <;> cases done
    exact .inr (.inr (.inl ⟨last, wait, b'', after_transition after, rfl⟩))
  · obtain ⟨working, -⟩ := MicroOp.run_working giveUp
    have poll : row.op = .poll := by
      by_contra hne
      exact (working hne).2 rfl
    obtain ⟨place, -⟩ := poll_place poll
    simp only [poll, MicroOp.run, Block.pollSample] at giveUp
    split at giveUp <;> [cases giveUp; split at giveUp <;> cases giveUp]
    have sending : b.phase = .addr ∨ b.phase = .data ∧ ¬ (i.op = 4 ∨ i.op = 5 ∧ b.rs = true) := by
      rw [← planOf_receives_iff, Bool.not_eq_true]
      exact place
    rw [(after_transition after).eq_abort rfl sending]
    exact .inr (.inr (.inr ⟨poll, rfl⟩))

/-- What a transition leaves alone is after the row as the micro-op left it. -/
theorem rowStep_run (h : (planOf i).rowStep du l pay row b = some c) :
    ∃ b' f, row.op.run du l b = (b', f) ∧ c.scl = b'.scl ∧ c.sda = b'.sda ∧ c.op = b'.op ∧ c.a = b'.a ∧ c.rl = b'.rl ∧
      c.dat = b'.dat ∧ c.ill = b'.ill ∧ c.ackf = b'.ackf ∧ c.pollCnt = b'.pollCnt ∧ c.hbCnt = b'.hbCnt := by
  rcases Plan.rowStep_some h with hold | ⟨b', done, -, rfl⟩ | ⟨b', b'', leaves, after, rfl⟩
  · exact ⟨c, _, hold, rfl, rfl, rfl, rfl, rfl, rfl, rfl, rfl, rfl, rfl⟩
  · exact ⟨b', _, done, rfl, rfl, rfl, rfl, rfl, rfl, rfl, rfl, rfl, rfl⟩
  · obtain ⟨hscl, hsda, hop, ha, hrl, hdat, hill, hackf, hpoll, hhb, -⟩ := after_frame after
    rcases leaves with ⟨done, -⟩ | giveUp
    · exact ⟨b', _, done, hscl, hsda, hop, ha, hrl, hdat, hill, hackf, hpoll, hhb⟩
    · exact ⟨b', _, giveUp, hscl, hsda, hop, ha, hrl, hdat, hill, hackf, hpoll, hhb⟩

/-- A row leaves the latch and `ILL` alone, and moves one line at most (rules R26, R32, R39). -/
theorem rowStep_latch (h : (planOf i).rowStep du l pay row b = some c) :
    c.op = b.op ∧ c.a = b.a ∧ c.rl = b.rl ∧ c.dat = b.dat ∧ c.ill = b.ill ∧ (c.scl = b.scl ∨ c.sda = b.sda) := by
  obtain ⟨b', f, run, hscl, hsda, hop, ha, hrl, hdat, hill, -⟩ := rowStep_run h
  obtain ⟨-, -, hop', ha', hrl', hdat', -, -, -, hill', -, -, lines⟩ := MicroOp.run_frame run
  rw [hscl, hsda, hop, ha, hrl, hdat, hill]
  exact ⟨hop', ha', hrl', hdat', hill', lines⟩

/-- A row writes `ACKF` and `POLL_CNT` in the acknowledgment slot only, and `HB_CNT` in a wait (rules R30, R35, R36). -/
theorem rowStep_counters (hr : b.row ((planOf i).receives b) = some row)
    (h : (planOf i).rowStep du l pay row b = some c) :
    (c.ackf ≠ b.ackf → (b.phase = .addr ∨ b.phase = .data) ∧ b.k = 61) ∧
    (c.pollCnt ≠ b.pollCnt → (b.phase = .addr ∨ b.phase = .data) ∧ (b.k = 60 ∨ b.k = 61)) ∧
    (c.hbCnt ≠ b.hbCnt → row.op = .wait) := by
  obtain ⟨b', f, run, -, -, -, -, -, -, -, hackf, hpoll, hhb⟩ := rowStep_run h
  obtain ⟨ackf, pollCnt, hbCnt, -⟩ := MicroOp.run_working run
  obtain ⟨poll_place, open_place, -⟩ := Block.row_place hr
  have phase : (b.phase = .addr ∨ b.phase = .data ∧ (planOf i).receives b = false) → b.phase = .addr ∨ b.phase = .data :=
    Or.imp_right And.left
  rw [hackf, hpoll, hhb]
  refine ⟨fun hne => ?_, fun hne => ?_, fun hne => ?_⟩
  · obtain ⟨hp, hk⟩ := poll_place (by_contra fun ho => hne (ackf ho).1)
    exact ⟨phase hp, hk⟩
  · by_cases ho : row.op = .poll
    · obtain ⟨hp, hk⟩ := poll_place ho
      exact ⟨phase hp, .inr hk⟩
    · obtain ⟨hp, hk⟩ := open_place (by_contra fun ho' => hne (pollCnt ho ho'))
      exact ⟨phase hp, .inl hk⟩
  · exact by_contra fun ho => hne (hbCnt ho)

/-- A row sets `ERR` in an abort, and `RSPV` in the response (rules R31, R33). -/
theorem rowStep_flags (hr : b.row ((planOf i).receives b) = some row)
    (h : (planOf i).rowStep du l pay row b = some c) :
    (c.err ≠ b.err → c.err = true ∧ c.phase = .stop ∧ c.ackf = false) ∧
    (c.rspv ≠ b.rspv → b.phase = .stop ∧ c.phase = .idle) := by
  rcases rowStep_cases hr h with hold | ⟨b', done, -, rfl⟩ | ⟨-, -, b', trans, rfl⟩ | ⟨-, rfl⟩
  · obtain ⟨-, -, -, -, -, -, -, -, herr, -, hrspv, -⟩ := MicroOp.run_frame hold
    exact ⟨absurd herr, absurd hrspv⟩
  · obtain ⟨-, -, -, -, -, -, -, -, herr, -, hrspv, -⟩ := MicroOp.run_frame done
    exact ⟨absurd herr, absurd hrspv⟩
  · exact ⟨trans.err_change, trans.rspv_change⟩
  · exact ⟨fun _ => ⟨rfl, rfl, rfl⟩, absurd rfl⟩

/-- A row changes `BYTE_I` and `RXDATA` at the end of a data byte only, and `RS` at the end of the second Start
(rules R27, R28, R34). -/
theorem rowStep_bytes (hr : b.row ((planOf i).receives b) = some row)
    (h : (planOf i).rowStep du l pay row b = some c) :
    (c.byteI ≠ b.byteI → b.phase = .data ∧ b.k = 63 ∧ (i.op = 2 ∨ i.op = 3)) ∧
    (c.rs ≠ b.rs → b.phase = .rstart ∧ c.rs = true ∧ i.op = 5) ∧
    (c.rxdata ≠ b.rxdata →
      b.phase = .data ∧ b.k = 63 ∧ c.phase = .stop ∧ c.rxdata = b.shreg ∧ (i.op = 4 ∨ i.op = 5)) := by
  obtain ⟨-, -, last_place⟩ := Block.row_place hr
  rcases rowStep_cases hr h with hold | ⟨b', done, -, rfl⟩ | ⟨last, -, b', trans, rfl⟩ | ⟨-, rfl⟩
  · obtain ⟨-, -, -, -, -, -, hbyte, hrs, -, -, -, hrx, -⟩ := MicroOp.run_frame hold
    exact ⟨absurd hbyte, absurd hrs, absurd hrx⟩
  · obtain ⟨-, -, -, -, -, -, hbyte, hrs, -, -, -, hrx, -⟩ := MicroOp.run_frame done
    exact ⟨absurd hbyte, absurd hrs, absurd hrx⟩
  · obtain ⟨-, -, hk⟩ := last_place last
    refine ⟨fun hne => ?_, trans.rs_change, fun hne => ?_⟩
    · obtain ⟨hp, ho⟩ := trans.byteI_change hne
      exact ⟨hp, hk (.inr hp), ho⟩
    · obtain ⟨hp, hstop, hrx, ho⟩ := trans.rxdata_change hne
      exact ⟨hp, hk (.inr hp), hstop, hrx, ho⟩
  · exact ⟨absurd rfl, absurd rfl, absurd rfl⟩

/-- A row writes `SHREG` at the end of a primitive after which a byte is sent, or while it receives (rule R29). -/
theorem rowStep_shreg (hr : b.row ((planOf i).receives b) = some row)
    (h : (planOf i).rowStep du l pay row b = some c) (hne : c.shreg ≠ b.shreg) :
    b.phase = .start ∧ b.k = 7 ∨ b.phase = .rstart ∧ b.k = 7 ∧ i.op = 5 ∨ b.phase = .addr ∧ b.k = 63 ∨
    b.phase = .data ∧ b.k = 63 ∧ (i.op = 2 ∨ i.op = 3) ∨ b.phase = .data ∧ (planOf i).receives b = true := by
  have receiving : ∀ {b' : Block} {f : Fate}, row.op.run du l b = (b', f) → b'.shreg ≠ b.shreg →
      b.phase = .data ∧ (planOf i).receives b = true := by
    intro b' f run hne'
    obtain ⟨-, -, -, shreg, -⟩ := MicroOp.run_working run
    refine Block.row_receive hr (by_contra fun ho => ?_)
    rw [not_or, not_exists] at ho
    exact hne' (shreg ho.1 ho.2)
  obtain ⟨-, -, last_place⟩ := Block.row_place hr
  rcases rowStep_cases hr h with hold | ⟨b', done, -, rfl⟩ | ⟨last, -, b', trans, rfl⟩ | ⟨-, rfl⟩
  · exact .inr (.inr (.inr (.inr (receiving hold hne))))
  · exact .inr (.inr (.inr (.inr (receiving done hne))))
  · obtain ⟨-, short, long⟩ := last_place last
    rcases trans.shreg_change hne with hp | ⟨hp, ho⟩ | hp | ⟨hp, ho⟩
    · exact .inl ⟨hp, short (.inl hp)⟩
    · exact .inr (.inl ⟨hp, short (.inr (.inl hp)), ho⟩)
    · exact .inr (.inr (.inl ⟨hp, long (.inl hp)⟩))
    · exact .inr (.inr (.inr (.inl ⟨hp, long (.inr hp), ho⟩)))
  · exact absurd rfl hne

end

/-! ### The frames of the commands -/

/-- A row takes one sample or none. -/
theorem MicroRow.useEnv_or (row : MicroRow) (e : Env) : row.useEnv e = e ∨ row.useEnv e = e.takeSample := by
  unfold MicroRow.useEnv
  split
  · exact .inr rfl
  · exact .inl rfl

/-- A clock cycle of a command in flight is a row's. -/
theorem exec_busy_cases {i : Instr} {s t : State} (hp : s.block.phase ≠ .idle) (h : exec i s = .next t) :
    ∃ row, s.block.row ((planOf i).receives s.block) = some row ∧
      (planOf i).rowStep s.du s.env.dataLevel s.pay row s.block = some t.block ∧
      t.delay = s.delay ∧ t.env = row.useEnv s.env := by
  rw [exec_busy i hp] at h
  obtain ⟨row, b, hr, hrow, rfl⟩ := microStep_next h
  exact ⟨row, hr, hrow, rfl, rfl⟩

/-- Settles O32: the row's frame, and `OP` = 1 to 3 rules out what only a read command changes. -/
theorem writesFrame : Obligations.WritesFrame := by
  intro i s t hop h
  by_cases hp : s.block.phase = .idle
  · rw [exec_idle i hp] at h
    cases h
    simp [hp]
  · obtain ⟨row, hr, hrow, hdelay, henv⟩ := exec_busy_cases hp h
    obtain ⟨op, a, rl, dat, ill, lines⟩ := rowStep_latch hrow
    obtain ⟨ackf, pollCnt, hbCnt⟩ := rowStep_counters hr hrow
    obtain ⟨err, rspv⟩ := rowStep_flags hr hrow
    obtain ⟨byteI, rs, rxdata⟩ := rowStep_bytes hr hrow
    obtain ⟨host, payload⟩ := row.useEnv_frame s.env
    rw [← henv] at host payload
    have writes : i.op ≠ 4 ∧ i.op ≠ 5 ∧ (planOf i).receives s.block ≠ true := by
      rw [Ne, Ne, Ne, planOf_receives_iff]
      rcases hop with ho | ho | ho <;> simp [ho]
    obtain ⟨not_readByte, not_readReg, not_receiving⟩ := writes
    have rxdata' : t.block.rxdata = s.block.rxdata :=
      by_contra fun hne => (rxdata hne).2.2.2.2.elim not_readByte not_readReg
    have rs' : t.block.rs = s.block.rs := by_contra fun hne => not_readReg (rs hne).2.2
    refine ⟨hdelay, host, payload, fun j => by rw [payload], rxdata', (absurd · hp), fun _ => ?_⟩
    refine ⟨op, a, rl, dat, rs', ill, err, rspv, ?_, ackf, pollCnt, ?_, fun hne => ⟨row, hr, hbCnt hne⟩,
      henv ▸ row.useEnv_or s.env, lines⟩
    · intro hne
      obtain ⟨hdata, hk, ho⟩ := byteI hne
      refine ⟨hdata, hk, ?_⟩
      rcases ho with ho | ho <;> simp [ho]
    · intro hne
      rcases rowStep_shreg hr hrow hne with hstart | ⟨-, -, ho⟩ | ⟨haddr, hk⟩ | ⟨hdata, hk, -⟩ | ⟨-, receiving⟩
      · exact .inl hstart
      · exact absurd ho not_readReg
      · exact .inr ⟨.inl haddr, hk⟩
      · exact .inr ⟨.inr hdata, hk⟩
      · exact absurd receiving not_receiving

/-- Settles O33: the row's frame, and `OP` = 4 or 5 rules out what only a write command changes. -/
theorem readsFrame : Obligations.ReadsFrame := by
  intro i s t hop h
  by_cases hp : s.block.phase = .idle
  · rw [exec_idle i hp] at h
    cases h
    simp [hp]
  · obtain ⟨row, hr, hrow, hdelay, henv⟩ := exec_busy_cases hp h
    obtain ⟨op, a, rl, dat, ill, lines⟩ := rowStep_latch hrow
    obtain ⟨ackf, pollCnt, hbCnt⟩ := rowStep_counters hr hrow
    obtain ⟨err, rspv⟩ := rowStep_flags hr hrow
    obtain ⟨byteI, rs, rxdata⟩ := rowStep_bytes hr hrow
    obtain ⟨host, payload⟩ := row.useEnv_frame s.env
    rw [← henv] at host payload
    have reads : ¬ (i.op = 2 ∨ i.op = 3) := by
      rcases hop with ho | ho <;> simp [ho]
    have rxdata' : t.block.rxdata ≠ s.block.rxdata →
        s.block.phase = .data ∧ s.block.k = 63 ∧ t.block.phase = .stop ∧ t.block.rxdata = s.block.shreg := by
      intro hne
      obtain ⟨hdata, hk, hstop, hrx, -⟩ := rxdata hne
      exact ⟨hdata, hk, hstop, hrx⟩
    have byteI' : t.block.byteI = s.block.byteI := by_contra fun hne => reads (byteI hne).2.2
    refine ⟨hdelay, host, payload, fun j => by rw [payload], rxdata', (absurd · hp), fun _ => ?_⟩
    refine ⟨op, a, rl, dat, byteI', ill, rs, err, rspv, ackf, pollCnt, ?_, fun hne => ⟨row, hr, hbCnt hne⟩,
      henv ▸ row.useEnv_or s.env, lines⟩
    intro hne
    rcases rowStep_shreg hr hrow hne with ⟨hstart, hk⟩ | ⟨hrstart, hk, -⟩ | haddr | ⟨-, -, ho⟩ | receiving
    · exact .inl ⟨.inl hstart, hk⟩
    · exact .inl ⟨.inr hrstart, hk⟩
    · exact .inr (.inl haddr)
    · exact absurd ho reads
    · exact .inr (.inr receiving)

end Sys2Proof.Machine
end

section
/-! PROOFS. The invariant of 10_state.md: it holds at reset, and every step keeps it. A clock cycle keeps it row by
row: a row that is not over changes a counter, an inner row moves the lines and K on, and the end of a primitive enters a
phase with K = 0. -/

namespace Sys2Proof.Machine

/-! ### Reset and the cycles in `IDLE` -/

theorem pollBound_pos {du : Nat} (h : 0 < du) : 0 < pollBound du := by
  unfold pollBound pollFactor
  omega

/-- The reset values meet the invariant, whatever `DELAY_UNITS` is (rule R43). -/
theorem Block.reset_inv {du : Nat} (h : 0 < du) : Block.reset.Inv du := by
  have bound := pollBound_pos h
  constructor <;> simp [Block.reset, Block.levels, Block.sending, h, bound]

/-- Settles O38: the reset values meet the invariant, and nothing is listed in the payload memory. -/
theorem resetInv : Obligations.ResetInv :=
  ⟨Block.reset_inv (Nat.succ_pos _), Memory.reset_wf⟩

section
variable {du : Nat} {b : Block}

/-- The end of the response keeps the invariant. -/
theorem Block.Inv.idleCycle (h : b.Inv du) (hp : b.phase = .idle) : b.idleCycle.Inv du :=
  { h with noResponse := absurd hp }

/-- A refusal keeps the invariant. -/
theorem Block.Inv.refuse (h : b.Inv du) (hp : b.phase = .idle) : b.refuse.Inv du :=
  { h with
    noResponse := absurd hp
    error := by simp }

/-- In `IDLE` no wait runs, so `HB_CNT` is 0 (rule R35). -/
theorem Block.Inv.hbCnt_idle (h : b.Inv du) (hp : b.phase = .idle) : b.hbCnt = 0 := by
  by_contra hne
  obtain ⟨row, hr, -⟩ := h.halfBitIdle hne
  simp [Block.row, hp] at hr

/-- Acceptance enters the first Start with both lines released (rules R113, R147). -/
theorem Block.Inv.accept (h : b.Inv du) (hp : b.phase = .idle) (i : Instr) : (b.accept i).Inv du := by
  have lines := h.lines
  have hb := h.hbCnt_idle hp
  constructor
  case latched => simp [Block.accept_command]
  case halfBit => exact h.halfBit
  case poll => exact h.poll
  case lines => simpa [Block.levels, hp, startLevels] using lines
  all_goals simp [Block.sending, hb]

/-! ### Entering a phase

A phase is entered with K = 0 and `HB_CNT` = 0; what the invariant says of the phase left and of the registers the transition
loads is what it says of the phase entered (rule R149). -/

/-- Before the way out no error stands (rule R31). -/
theorem Block.Inv.err_false (h : b.Inv du) (hp : b.phase ≠ .stop ∧ b.phase ≠ .idle) : b.err = false := by
  by_contra hne
  obtain ⟨stop | idle, -⟩ := h.error (by simpa using hne)
  · exact hp.1 stop
  · exact hp.2 idle

/-- An address phase is entered after a Start, which has left Data low. -/
theorem Block.Inv.enterAddr (h : b.Inv du) (hp : b.phase = .start ∨ b.phase = .rstart) (hb : b.hbCnt = 0)
    (lines : b.scl = true ∧ b.sda = false) {second : Bool} (hsecond : second = true → b.op = 5) {v : Byte}
    (hv : v = addressByte b.a (b.op == 4 || second)) :
    ({ b with phase := .addr, k := 0, rs := second, shreg := v } : Block).Inv du := by
  have hbusy : b.phase ≠ .idle := by rcases hp with hp | hp <;> simp [hp]
  have herr := h.err_false (by rcases hp with hp | hp <;> simp [hp])
  have hbyte := h.byteIndexFirst (hp.imp_right .inr)
  constructor
  case latched => exact fun _ => h.latched hbusy
  case rsSet => exact fun _ hrs => ⟨hsecond hrs, by simp⟩
  case noResponse => exact fun _ => h.noResponse hbusy
  case halfBit => exact h.halfBit
  case poll => exact h.poll
  case addrByte => exact fun _ => hv
  case lines => simp [Block.levels, sendLevels, lines]
  all_goals simp [herr, hb, hbyte]

/-- `DATA` is entered with a byte the command has at this index, or to receive; both lines are released. -/
theorem Block.Inv.enterData (h : b.Inv du) (hp : b.phase = .addr ∨ b.phase = .data) (hb : b.hbCnt = 0)
    (lines : b.scl = true ∧ b.sda = true) {j v : Byte} (hj : j.toNat ≤ 254)
    (zero : b.op = 1 ∨ b.op = 4 ∨ b.op = 5 → j = 0) (multi : b.op = 2 → j.toNat < b.rl.toNat)
    (reg : b.op = 3 → j = 0 ∨ j = 1)
    (byte : (b.op = 1 → v = b.dat) ∧ (b.op = 3 → v = if j = 0 then b.rl else b.dat) ∧
      (b.op = 5 → b.rs = false → v = b.rl)) :
    ({ b with phase := .data, k := 0, shreg := v, byteI := j } : Block).Inv du := by
  have hbusy : b.phase ≠ .idle := by rcases hp with hp | hp <;> simp [hp]
  have herr := h.err_false (by rcases hp with hp | hp <;> simp [hp])
  constructor
  case latched => exact fun _ => h.latched hbusy
  case rsSet => exact fun _ hrs => ⟨(h.rsSet hbusy hrs).1, by simp⟩
  case noResponse => exact fun _ => h.noResponse hbusy
  case halfBit => exact h.halfBit
  case poll => exact h.poll
  case byteIndex => exact hj
  case byteIndexZero => exact fun _ => zero
  case byteIndexMulti => exact fun _ => multi
  case byteIndexReg => exact fun _ => reg
  case dataByte => exact fun _ => byte
  case lines => simp [Block.levels, sendLevels, receiveLevels, lines]
  all_goals simp [herr, hb]

/-- The second Start is entered after the register byte of `READ_REG`. -/
theorem Block.Inv.enterRstart (h : b.Inv du) (hp : b.phase = .data) (hb : b.hbCnt = 0)
    (lines : b.scl = true ∧ b.sda = true) (ho : b.op = 5) (hr : b.rs = false) :
    (b.enterRstart.withK 0).Inv du := by
  have hbusy : b.phase ≠ .idle := by simp [hp]
  have herr := h.err_false (by simp [hp])
  have hbyte := h.byteIndexZero hp (.inr (.inr ho))
  constructor
  case latched => exact fun _ => h.latched hbusy
  case noResponse => exact fun _ => h.noResponse hbusy
  case halfBit => exact h.halfBit
  case poll => exact h.poll
  case lines => simp [Block.levels, startLevels, lines]
  all_goals simp [Block.sending, herr, hb, hbyte, ho, hr]

/-- `STOP` is entered after a byte, acknowledged or not, sent or received. -/
theorem Block.Inv.enterStop (h : b.Inv du) (hbusy : b.phase ≠ .idle) (hb : b.hbCnt = 0)
    (lines : b.scl = true ∧ b.sda = true) (e : Bool) (x : Byte) :
    ({ b with phase := .stop, k := 0, err := e, rxdata := x } : Block).Inv du := by
  obtain ⟨hrspv, hill⟩ := h.noResponse hbusy
  constructor
  case latched => exact fun _ => h.latched hbusy
  case rsSet => exact fun _ hrs => ⟨(h.rsSet hbusy hrs).1, by simp⟩
  case halfBit => exact h.halfBit
  case poll => exact h.poll
  case byteIndex => exact h.byteIndex
  case lines => simp [Block.levels, stopLevels, lines]
  all_goals simp [Block.sending, hb, hrspv, hill]

/-- The response is the way back to `IDLE`, both lines released. -/
theorem Block.Inv.respond (h : b.Inv du) (hp : b.phase = .stop) (hb : b.hbCnt = 0)
    (lines : b.scl = true ∧ b.sda = true) : (b.respond.withK 0).Inv du := by
  obtain ⟨-, hill⟩ := h.noResponse (by simp [hp])
  constructor
  case halfBit => exact h.halfBit
  case poll => exact h.poll
  case byteIndex => exact h.byteIndex
  case lines => simp [Block.levels, lines]
  all_goals simp [Block.sending, hb, hill]

/-- Every transition enters its phase with the invariant. -/
theorem Block.Inv.transition {pay : Byte → Byte} {c : Block} (h : b.Inv du) (hb : b.hbCnt = 0)
    (lines : b.scl = true ∧ b.sda = decide (b.phase ≠ .start ∧ b.phase ≠ .rstart)) (t : Transition pay b.op b c) :
    (c.withK 0).Inv du := by
  obtain ⟨hscl, hsda⟩ := lines
  have released (hp : b.phase = .addr ∨ b.phase = .data ∨ b.phase = .stop) : b.scl = true ∧ b.sda = true := by
    rcases hp with hp | hp | hp <;> simp [hscl, hsda, hp]
  have first (hp : b.phase = .addr) : b.byteI = 0 := h.byteIndexFirst (.inr (.inl hp))
  cases t with
  | address hp =>
    have hrs : b.rs = false := by
      by_contra hne
      exact (h.rsSet (by simp [hp]) (by simpa using hne)).2 hp
    exact h.enterAddr (.inl hp) hb ⟨hscl, by simp [hsda, hp]⟩ (by simp [hrs]) (by simp [hrs])
  | secondAddress hp ho =>
    exact h.enterAddr (.inr hp) hb ⟨hscl, by simp [hsda, hp]⟩ (fun _ => ho) (by simp)
  | abort hp | allSent hp =>
    have hbusy : b.phase ≠ .idle := by rcases hp with hp | hp <;> simp [hp]
    exact h.enterStop hbusy hb (released (hp.imp_right .inl)) _ _
  | received hp => exact h.enterStop (by simp [hp]) hb (released (.inr (.inl hp))) _ _
  | receive hp _ hr =>
    refine h.enterData (.inl hp) hb (released (.inl hp)) h.byteIndex (fun _ => first hp) ?_ ?_ ?_ <;>
      rcases hr with ho | ⟨ho, hrs⟩ <;> simp [*]
  | dataByte hp _ ho =>
    refine h.enterData (.inl hp) hb (released (.inl hp)) h.byteIndex (fun _ => first hp) ?_ ?_ ?_ <;> simp [ho]
  | payloadByte hp _ ho hn =>
    have hrl : b.byteI.toNat < b.rl.toNat := by
      rw [first hp]
      bv_omega
    refine h.enterData (.inl hp) hb (released (.inl hp)) h.byteIndex (fun _ => first hp) (fun _ => hrl) ?_ ?_ <;>
      simp [ho]
  | registerByte hp _ hr =>
    refine h.enterData (.inl hp) hb (released (.inl hp)) h.byteIndex (fun _ => first hp) ?_ ?_ ?_ <;>
      rcases hr with ho | ⟨ho, hrs⟩ <;> simp [first hp, *]
  | nextPayloadByte hp _ ho hn =>
    have hrl := b.rl.isLt
    have next : (b.byteI + 1).toNat = b.byteI.toNat + 1 := by bv_omega
    have hj : (b.byteI + 1).toNat ≤ 254 := by omega
    refine h.enterData (.inr hp) hb (released (.inr (.inl hp))) hj ?_ (fun _ => next ▸ hn) ?_ ?_ <;> simp [ho]
  | registerData hp _ ho =>
    refine h.enterData (.inr hp) hb (released (.inr (.inl hp))) ?_ ?_ ?_ ?_ ?_ <;> simp [ho]
  | restart hp _ ho hr => exact h.enterRstart hp hb (released (.inr (.inl hp))) ho hr
  | response hp => exact h.respond hp hb (released (.inr (.inr hp)))

end

/-! ### Lines along a primitive -/

/-- The lines after a micro-op that finds `(SCL, SDA)` at `x` and `v` in `SHREG`. -/
def MicroOp.drive (v : Byte) (x : Level × Level) : MicroOp → Level × Level
  | .setClock l => (l, x.2)
  | .setData l => (x.1, l)
  | .setDataBit i => (x.1, bitOf v i)
  | .release => (x.1, true)
  | .setClockPoll => (true, x.2)
  | .wait => x
  | .poll => x
  | .sampleBit _ => x

theorem MicroOp.run_drive {du : Nat} {l : Level} {b c : Block} {f : Fate} {op : MicroOp}
    (h : op.run du l b = (c, f)) : (c.scl, c.sda) = op.drive b.shreg (b.scl, b.sda) := by
  cases op with
  | wait =>
    simp only [MicroOp.run, Block.waitCycle] at h
    split at h <;> cases h <;> rfl
  | poll =>
    simp only [MicroOp.run, Block.pollSample] at h
    split at h <;> [cases h; split at h <;> cases h] <;> rfl
  | _ => cases h; rfl

/-- A row of Start that is not the last leads to the levels of the next K (rule R110). -/
theorem startRow_drive {k : Nat} {row : MicroRow} (h : startRow k = some row) (hl : row.last = false) (v : Byte) :
    k < 7 ∧ row.op.drive v (startLevels k) = startLevels (k + 1) := by
  unfold startRow at h
  split at h <;> cases h <;> simp [MicroRow.inner, MicroRow.final, MicroOp.drive, startLevels] at hl ⊢

/-- A row of Stop that is not the last leads to the levels of the next K (rule R111). -/
theorem stopRow_drive {k : Nat} {row : MicroRow} (h : stopRow k = some row) (hl : row.last = false) (v : Byte) :
    k < 7 ∧ row.op.drive v (stopLevels k) = stopLevels (k + 1) := by
  unfold stopRow at h
  split at h <;> cases h <;> simp [MicroRow.inner, MicroRow.final, MicroOp.drive, stopLevels] at hl ⊢

/-- A row of SendByte that is not the last leads to the levels of the next K (rule R130). -/
theorem sendRow_drive {k : Nat} (hk : k < 64) (hl : (sendRow k).last = false) (entry : Level) (v : Byte) :
    k < 63 ∧ (sendRow k).op.drive v (sendLevels entry v k) = sendLevels entry v (k + 1) := by
  have hk' : k < 63 := by
    by_contra hge
    obtain rfl : k = 63 := by omega
    cases hl
  refine ⟨hk', ?_⟩
  interval_cases k <;> rfl

/-- A row of ReceiveByte that is not the last leads to the levels of the next K (rule R131). -/
theorem receiveRow_drive {k : Nat} (hk : k < 64) (hl : (receiveRow k).last = false) (v : Byte) :
    k < 63 ∧ (receiveRow k).op.drive v (receiveLevels k) = receiveLevels (k + 1) := by
  have hk' : k < 63 := by
    by_contra hge
    obtain rfl : k = 63 := by omega
    cases hl
  refine ⟨hk', ?_⟩
  interval_cases k <;> rfl

/-- The levels depend on the position, on whether `DATA` receives, and on a byte that is being sent. -/
theorem Block.levels_congr {b c : Block} (hp : c.phase = b.phase) (hk : c.k = b.k) (hr : c.receives = b.receives)
    (hs : b.sending → c.shreg = b.shreg) : c.levels = b.levels := by
  unfold Block.levels
  rw [hp, hk, hr]
  cases h : b.phase
  case addr => rw [hs (.inl h)]
  case data =>
    cases hrec : b.receives
    · rw [hs (.inr ⟨h, hrec⟩)]
    · rfl
  all_goals rfl

/-- A row that is not its primitive's last leads to the levels of the next position. -/
theorem Block.levels_next {b : Block} {row : MicroRow} (hr : b.row b.receives = some row) (hl : row.last = false) :
    (b.phase = .start ∨ b.phase = .rstart ∨ b.phase = .stop → b.k.toNat < 7) ∧ b.k.toNat < 63 ∧
    row.op.drive b.shreg b.levels = (b.withK (b.k + 1)).levels := by
  have next (hk : b.k.toNat < 63) : (b.k + 1).toNat = b.k.toNat + 1 := by bv_omega
  unfold Block.row at hr
  unfold Block.levels
  cases hp : b.phase <;> simp only [hp] at hr <;> simp only [Block.withK_phase, hp]
  case idle => cases hr
  case start | rstart =>
    obtain ⟨hk, drive⟩ := startRow_drive hr hl b.shreg
    have hk' : b.k.toNat < 63 := by omega
    exact ⟨fun _ => hk, hk', drive.trans (congrArg _ (next hk').symm)⟩
  case stop =>
    obtain ⟨hk, drive⟩ := stopRow_drive hr hl b.shreg
    have hk' : b.k.toNat < 63 := by omega
    exact ⟨fun _ => hk, hk', drive.trans (congrArg _ (next hk').symm)⟩
  case addr =>
    cases hr
    obtain ⟨hk, drive⟩ := sendRow_drive b.k.isLt hl false b.shreg
    exact ⟨by simp, hk, drive.trans (congrArg _ (next hk).symm)⟩
  case data =>
    have same : (b.withK (b.k + 1)).receives = b.receives := rfl
    rw [same]
    cases hrec : b.receives <;> rw [hrec] at hr <;> cases hr
    · obtain ⟨hk, drive⟩ := sendRow_drive b.k.isLt hl true b.shreg
      exact ⟨by simp, hk, drive.trans (congrArg _ (next hk).symm)⟩
    · obtain ⟨hk, drive⟩ := receiveRow_drive b.k.isLt hl b.shreg
      exact ⟨by simp, hk, drive.trans (congrArg _ (next hk).symm)⟩

/-- When a primitive's last row is reached, Clock is high, and Data low after a Start and released after any other
(rules R110, R111, R130, R131). -/
theorem Block.levels_last {b : Block} {row : MicroRow} (hr : b.row b.receives = some row) (hl : row.last = true) :
    b.levels = (true, decide (b.phase ≠ .start ∧ b.phase ≠ .rstart)) := by
  obtain ⟨-, -, place⟩ := Block.row_place hr
  obtain ⟨-, short, long⟩ := place hl
  unfold Block.levels
  cases hp : b.phase <;> simp [hp] at short long
  case idle => simp
  case start | rstart => simp [short, startLevels]
  case stop => simp [short, stopLevels]
  case addr => simp [long, sendLevels]
  case data => cases hrec : b.receives <;> simp [long, sendLevels, receiveLevels]

/-- While the acknowledgment is polled both lines are released (rule R130). -/
theorem Block.levels_poll {b : Block} {row : MicroRow} (hr : b.row b.receives = some row) (ho : row.op = .poll) :
    b.levels = (true, true) := by
  obtain ⟨place, -, -⟩ := Block.row_place hr
  obtain ⟨hp | ⟨hp, hrec⟩, hk⟩ := place ho
  · simp [Block.levels, hp, hk, sendLevels]
  · simp [Block.levels, hp, hrec, hk, sendLevels]

/-! ### A row keeps the invariant -/

/-- The registers a micro-op may write, all others being as they were. -/
theorem MicroOp.run_eq {du : Nat} {l : Level} {b c : Block} {f : Fate} {op : MicroOp} (h : op.run du l b = (c, f)) :
    c = { b with
      scl := c.scl, sda := c.sda, shreg := c.shreg, ackf := c.ackf, pollCnt := c.pollCnt, hbCnt := c.hbCnt } := by
  obtain ⟨phase, k, hop, a, rl, dat, byteI, rs, err, ill, rspv, rxdata, -⟩ := MicroOp.run_frame h
  rw [← phase, ← k, ← hop, ← a, ← rl, ← dat, ← byteI, ← rs, ← err, ← ill, ← rspv, ← rxdata]

/-- What a completed micro-op leaves: `HB_CNT` = 0 after a wait, an acknowledgment after the poll, and a poll count that has
not grown. -/
theorem MicroOp.run_done {du : Nat} {l : Level} {b c : Block} {op : MicroOp} (h : op.run du l b = (c, .done)) :
    (op = .wait → c.hbCnt = 0) ∧ (op = .poll → c.ackf = true) ∧ (c.pollCnt = b.pollCnt ∨ c.pollCnt = 0) := by
  cases op with
  | wait =>
    simp only [MicroOp.run, Block.waitCycle] at h
    split at h <;> cases h
    simp
  | poll =>
    simp only [MicroOp.run, Block.pollSample] at h
    split at h
    · cases h
      simp
    · split at h <;> cases h
  | _ => cases h; simp

/-- A micro-op that holds the position counts: a clock cycle of a wait, or a sample of the poll. -/
theorem MicroOp.run_hold {du : Nat} {l : Level} {b c : Block} {op : MicroOp} (h : op.run du l b = (c, .hold)) :
    (op = .wait ∧ b.hbCnt.toNat + 1 ≠ du ∧ c = b.withHbCnt (b.hbCnt + 1)) ∨
    (op = .poll ∧ b.pollCnt.toNat + 1 ≠ pollBound du ∧ c = b.withPollCnt (b.pollCnt + 1)) := by
  cases op with
  | wait =>
    simp only [MicroOp.run, Block.waitCycle] at h
    split at h <;> cases h
    exact .inl ⟨rfl, ‹_›, rfl⟩
  | poll =>
    simp only [MicroOp.run, Block.pollSample] at h
    split at h
    · cases h
    · split at h <;> cases h
      exact .inr ⟨rfl, ‹_›, rfl⟩
  | _ => cases h

section
variable {du : Nat} {b : Block} {row : MicroRow}

/-- Outside a wait `HB_CNT` is 0. -/
theorem Block.Inv.hbCnt_zero (h : b.Inv du) (hr : b.row b.receives = some row) (ho : row.op ≠ .wait) : b.hbCnt = 0 := by
  by_contra hne
  obtain ⟨row', hr', ho'⟩ := h.halfBitIdle hne
  rw [hr] at hr'
  cases hr'
  exact ho ho'

/-- A cycle of a wait that is not its last (rule R101). -/
theorem Block.Inv.waitHolds (h : b.Inv du) (hr : b.row b.receives = some row) (ho : row.op = .wait)
    (hne : b.hbCnt.toNat + 1 ≠ du) : (b.withHbCnt (b.hbCnt + 1)).Inv du :=
  have hlt := h.halfBit
  { h with
    halfBit := by
      rw [Block.withHbCnt_hbCnt]
      bv_omega
    halfBitIdle := fun _ => ⟨row, hr, ho⟩ }

/-- A high sample of the poll that is not its last (rule R122). -/
theorem Block.Inv.pollHolds (h : b.Inv du) (hne : b.pollCnt.toNat + 1 ≠ pollBound du) :
    (b.withPollCnt (b.pollCnt + 1)).Inv du :=
  have hlt := h.poll
  { h with
    poll := by
      rw [Block.withPollCnt_pollCnt]
      unfold pollBound pollFactor at *
      bv_omega }

/-- The next position of the same primitive: what a completed micro-op may have written, and where it leaves the lines. -/
theorem Block.Inv.advance (h : b.Inv du) (hr : b.row b.receives = some row) (hl : row.last = false) {x y ackf : Bool}
    {v : Byte} {n : BitVec 18} (lines : (x, y) = row.op.drive b.shreg b.levels)
    (shreg : v = b.shreg ∨ b.phase = .data ∧ b.receives = true) (poll : n.toNat < pollBound du)
    (acked : b.sending → 61 ≤ b.k.toNat → ackf = true) :
    ({ b with
        scl := x, sda := y, k := b.k + 1, shreg := v, ackf := ackf, pollCnt := n, hbCnt := 0 } : Block).Inv du := by
  obtain ⟨short, long, next⟩ := Block.levels_next hr hl
  have hk : (b.k + 1).toNat = b.k.toNat + 1 := by bv_omega
  have hbusy : b.phase ≠ .idle := by
    intro hp
    simp [Block.row, hp] at hr
  have sent (hs : b.sending) : v = b.shreg := by
    refine shreg.resolve_right fun ⟨hp, hrec⟩ => ?_
    rcases hs with hp' | ⟨-, hsend⟩
    · rw [hp] at hp'
      cases hp'
    · rw [hrec] at hsend
      cases hsend
  exact { h with
    idlePosition := fun hp => absurd hp hbusy
    shortPosition := fun hp => by
      show (b.k + 1).toNat ≤ 7
      have := short hp
      omega
    halfBit := lt_of_le_of_lt (Nat.zero_le _) h.halfBit
    halfBitIdle := absurd rfl
    poll := poll
    acknowledged := fun hs hge => acked hs (by
      have : 62 ≤ (b.k + 1).toNat := hge
      omega)
    addrByte := fun hp => (sent (.inl hp)).trans (h.addrByte hp)
    dataByte := fun hp => by
      cases hrec : b.receives
      · obtain rfl : v = b.shreg := sent (.inr ⟨hp, hrec⟩)
        exact h.dataByte hp
      · simp only [Block.receives, Bool.or_eq_true, Bool.and_eq_true, beq_iff_eq] at hrec
        rcases hrec with ho | ⟨ho, hrs⟩ <;> simp [*]
    lines := by
      refine (lines.trans next).trans (Eq.symm ?_)
      exact Block.levels_congr rfl rfl rfl sent }

/-- Where the poll has been passed, or is passed now, the byte is acknowledged (rule R123). -/
theorem Block.Inv.inner_acked (h : b.Inv du) (hr : b.row b.receives = some row) {l : Level} {c : Block}
    (run : row.op.run du l b = (c, .done)) (hs : b.sending) (hk : 61 ≤ b.k.toNat) : c.ackf = true := by
  obtain ⟨-, poll, -⟩ := MicroOp.run_done run
  obtain ⟨ackf, -⟩ := MicroOp.run_working run
  by_cases ho : row.op = .poll
  · exact poll ho
  · have hne : b.k.toNat ≠ 61 := by
      intro hk
      obtain rfl : sendRow 61 = row := by
        rcases hs with hp | ⟨hp, hrec⟩ <;> simpa [Block.row, *] using hr
      exact ho rfl
    rw [(ackf ho).1]
    exact h.acknowledged hs (by omega)

/-- A completed micro-op that does not end its primitive keeps the invariant: K moves on (rule R148). -/
theorem Block.Inv.inner (h : b.Inv du) (hr : b.row b.receives = some row) (hl : row.last = false) {l : Level} {c : Block}
    (run : row.op.run du l b = (c, .done)) : (c.withK (c.k + 1)).Inv du := by
  obtain ⟨wait, -, pollCnt⟩ := MicroOp.run_done run
  obtain ⟨-, -, hbCnt, shreg, -⟩ := MicroOp.run_working run
  have hb : c.hbCnt = 0 := by
    by_cases ho : row.op = .wait
    · exact wait ho
    · rw [hbCnt ho, h.hbCnt_zero hr ho]
  have poll : c.pollCnt.toNat < pollBound du := by
    rcases pollCnt with hn | hn <;> rw [hn]
    · exact h.poll
    · exact lt_of_le_of_lt (Nat.zero_le _) h.poll
  have byte : c.shreg = b.shreg ∨ b.phase = .data ∧ b.receives = true := by
    by_cases ho : row.op = .release ∨ ∃ j, row.op = .sampleBit j
    · exact .inr (Block.row_receive hr ho)
    · rw [not_or, not_exists] at ho
      exact .inl (shreg ho.1 ho.2)
  have advanced := h.advance hr hl (h.lines ▸ MicroOp.run_drive run) byte poll (h.inner_acked hr run)
  rw [MicroOp.run_eq run, hb]
  exact advanced

/-- The end of a primitive keeps the invariant: the command's transition enters the next phase (rule R149). -/
theorem Block.Inv.last (h : b.Inv du) (hr : b.row b.receives = some row) (hl : row.last = true)
    {pay : Byte → Byte} {c : Block} (t : Transition pay b.op (b.withHbCnt 0) c) : (c.withK 0).Inv du := by
  have waited : (b.withHbCnt 0).Inv du :=
    { h with
      halfBit := lt_of_le_of_lt (Nat.zero_le _) h.halfBit
      halfBitIdle := absurd rfl }
  have lines := Prod.mk.inj (h.lines.trans (Block.levels_last hr hl))
  exact waited.transition rfl lines t

/-- The poll's giving up keeps the invariant: the abort enters the Stop (rule R173). -/
theorem Block.Inv.giveUp (h : b.Inv du) (hr : b.row b.receives = some row) (ho : row.op = .poll) :
    ((b.withAckf false).abort.withK 0).Inv du := by
  obtain ⟨place, -, -⟩ := Block.row_place hr
  obtain ⟨hp, hk⟩ := place ho
  have hbusy : b.phase ≠ .idle := by rcases hp with hp | ⟨hp, -⟩ <;> simp [hp]
  have refused : (b.withAckf false).Inv du :=
    { h with acknowledged := by simp [hk] }
  have lines := Prod.mk.inj (h.lines.trans (Block.levels_poll hr ho))
  exact refused.enterStop hbusy (h.hbCnt_zero hr (by simp [ho])) lines _ _

/-- A clock cycle of the command in flight keeps the invariant. -/
theorem Block.Inv.rowStep (h : b.Inv du) {i : Instr} (hc : b.command = some i) (hr : b.row b.receives = some row)
    {l : Level} {pay : Byte → Byte} {c : Block} (hrow : (planOf i).rowStep du l pay row b = some c) : c.Inv du := by
  have hr' : b.row ((planOf i).receives b) = some row := (planOf_receives hc).symm ▸ hr
  obtain ⟨hop, -⟩ := Block.command_fields hc
  rcases rowStep_cases hr' hrow with hold | ⟨b', done, inner, rfl⟩ | ⟨last, -, b', t, rfl⟩ | ⟨poll, rfl⟩
  · rcases MicroOp.run_hold hold with ⟨wait, hne, rfl⟩ | ⟨-, hne, rfl⟩
    · exact h.waitHolds hr wait hne
    · exact h.pollHolds hne
  · exact h.inner hr inner done
  · exact h.last hr last (hop.symm ▸ t)
  · exact h.giveUp hr poll

end

/-- Settles O39: each thing a clock cycle is spent on keeps the block's invariant, and the host's write keeps the payload
memory canonical. -/
theorem stepKeepsInv : Obligations.StepKeepsInv := by
  intro s t h hstep
  obtain ⟨block, payload⟩ := h
  have stored : s.beginCycle.env.payload.wf = true := s.hostNow.store_wf payload
  rcases step_cases hstep with ⟨-, -, rfl⟩ | ⟨-, -, hp, rfl⟩ | ⟨-, -, hp, rfl⟩ | ⟨i, -, -, hp, rfl⟩ |
    ⟨i, row, b, -, -, -, hc, hr, hrow, rfl⟩
  · exact ⟨Block.reset_inv (Nat.succ_pos _), stored⟩
  · exact ⟨block.idleCycle hp, stored⟩
  · exact ⟨block.refuse hp, stored⟩
  · exact ⟨block.accept hp i, stored⟩
  · obtain ⟨-, hpayload⟩ := row.useEnv_frame s.beginCycle.env
    exact ⟨block.rowStep hc hr hrow, hpayload.symm ▸ stored⟩

end Sys2Proof.Machine
end

section
/-! PROOFS. The statements of 20_memory.md about a clock cycle in flight: the bit slots of a byte, the address byte and
the transitions of `WRITE_MULTI`. -/

namespace Sys2Proof.Machine

/-! ### The bit slots of a byte -/

/-- The index of slot j is 7 - j (rule R57). -/
theorem slotBit_val (j : Nat) : (slotBit j).val = 7 - j :=
  Nat.mod_eq_of_lt (by omega)

/-- Micro-op m of bit slot j stands at K = 7j + m of a SendByte (rule R130). -/
theorem sendRow_slot {j m : Nat} (hj : j < 8) (hm : m < 7) :
    sendRow (7 * j + m) = .inner (sendSlotOp (slotBit j) m) := by
  have slot : (7 * j + m) / 7 = j := by omega
  have place : (7 * j + m) % 7 = m := by omega
  rw [sendRow, if_pos (by omega), slot, place]

/-- Micro-op m of bit slot j stands at K = 7j + 1 + m of a ReceiveByte (rule R131). -/
theorem receiveRow_slot {j m : Nat} (hj : j < 8) (hm : m < 7) :
    receiveRow (7 * j + 1 + m) = .inner (receiveSlotOp (slotBit j) m) := by
  have slot : (7 * j + 1 + m - 1) / 7 = j := by omega
  have place : (7 * j + 1 + m - 1) % 7 = m := by omega
  rw [receiveRow, if_neg (by omega), if_pos (by omega), slot, place]

/-- The last clock cycle of a wait that does not end its primitive: K moves on (rules R101, R148). -/
theorem exec_inner_wait {i : Instr} {s : State} (hp : s.block.phase ≠ .idle)
    (hr : s.block.row ((planOf i).receives s.block) = some (.inner .wait)) (hl : s.lastWaitCycle) :
    exec i s = .next { s with block := { s.block with hbCnt := 0, k := s.block.k + 1 } } :=
  exec_inner hp hr (Block.waitCycle_last hl)

/-- Settles O22: K = 7j + m is micro-op m of slot j of the SendByte table, an inner row. -/
theorem sendBitRows : Obligations.SendBitRows := by
  intro i s j hc hs hj
  obtain ⟨hp, hr⟩ := row_sending hc hs
  have slot {m : Nat} (hm : m < 7) (hk : s.block.k.toNat = 7 * j + m) :
      s.block.row ((planOf i).receives s.block) = some (.inner (sendSlotOp (slotBit j) m)) := by
    rw [hr, hk, sendRow_slot hj hm]
  refine ⟨fun hk => ?_, fun hk => ?_, fun hk => ?_, fun hk hl => ?_⟩
  · exact exec_inner hp (slot (m := 0) (by decide) hk) rfl
  · rw [← slotBit_val]
    exact exec_inner hp (slot (m := 2) (by decide) hk) rfl
  · exact exec_inner hp (slot (m := 4) (by decide) hk) rfl
  · rcases hk with hk | hk | hk | hk <;> exact exec_inner_wait hp (slot (by decide) hk) hl

/-- An inner row at a known K. -/
theorem exec_inner_at {i : Instr} {s : State} {op : MicroOp} {b : Block} {k : BitVec 6} (hp : s.block.phase ≠ .idle)
    (hr : s.block.row ((planOf i).receives s.block) = some (.inner op)) (hk : s.block.k = k)
    (h : op.run s.du s.env.dataLevel s.block = (b, .done)) :
    exec i s = .next { s with block := b.withK (k + 1), env := (MicroRow.inner op).useEnv s.env } := by
  obtain ⟨-, same, -⟩ := MicroOp.run_frame h
  rw [exec_inner hp hr h, same, hk]

/-- Settles O25: K = 7j + 1 + m is micro-op m of slot j of the ReceiveByte table, an inner row, as are the release before
the slots and the NotAcknowledged after them. -/
theorem receiveRows : Obligations.ReceiveRows := by
  intro i s j hc hdata hrec hj
  have hp : s.block.phase ≠ .idle := by simp [hdata]
  have hr := row_receiving hc hdata hrec
  have slot {m : Nat} (hm : m < 7) (hk : s.block.k.toNat = 7 * j + 1 + m) :
      s.block.row ((planOf i).receives s.block) = some (.inner (receiveSlotOp (slotBit j) m)) := by
    rw [hr, hk, receiveRow_slot hj hm]
  have outside {k : BitVec 6} (hk : s.block.k = k) :
      s.block.row ((planOf i).receives s.block) = some (receiveRow k.toNat) := hk ▸ hr
  refine ⟨fun hk => ?_, fun hk => ?_, fun hk => ?_, fun hk => ?_, fun hk => ?_, fun hk => ?_, fun hk => ?_,
    fun hk hl => ?_⟩
  · exact exec_inner_at hp (outside hk) hk rfl
  · exact exec_inner hp (slot (m := 0) (by decide) hk) rfl
  · exact exec_inner hp (slot (m := 3) (by decide) hk) rfl
  · refine ⟨withBit s.block.shreg (slotBit j) s.env.dataLevel, fun b hb => ?_,
      exec_inner hp (slot (m := 5) (by decide) hk) rfl⟩
    rw [withBit_getLsbD _ _ _ hb, slotBit_val]
  · exact exec_inner_at hp (outside hk) hk rfl
  · exact exec_inner_at hp (outside hk) hk rfl
  · exact exec_inner_at hp (outside hk) hk rfl
  · rcases hk with hk | hk | hk | hk | hk | hk | hk
    · exact exec_inner_wait hp (slot (m := 1) (by decide) hk) hl
    · exact exec_inner_wait hp (slot (m := 2) (by decide) hk) hl
    · exact exec_inner_wait hp (slot (m := 4) (by decide) hk) hl
    · exact exec_inner_wait hp (slot (m := 6) (by decide) hk) hl
    all_goals exact exec_inner_wait hp (outside hk) hl

/-! ### The address byte, and the transitions of `WRITE_MULTI` -/

/-- A completed Start loads the address byte, for reading under `READ_BYTE` only (rule R149). -/
theorem after_start (i : Instr) {b : Block} (hp : b.phase = .start) (pay : Byte → Byte) :
    (planOf i).after pay b = some (b.enterAddr (i.op == 4)) := by
  cases i <;>
    simp [planOf, writeBytePlan, writeMultiPlan, writeRegPlan, readBytePlan, readRegPlan, writeByteAfter,
      writeMultiAfter, writeRegAfter, readByteAfter, readRegAfter, Instr.op, hp]

/-- The cycle that completes a Start, the first or the second (rules R110, R149). -/
theorem exec_start_final {i : Instr} {s : State} {b : Block} (hp : s.block.phase = .start ∨ s.block.phase = .rstart)
    (hk : s.block.k = 7) (hl : s.lastWaitCycle) (ha : (planOf i).after s.pay (s.block.withHbCnt 0) = some b) :
    exec i s = .next { s with block := b.withK 0 } := by
  have hbusy : s.block.phase ≠ .idle := by rcases hp with hp | hp <;> simp [hp]
  have hr : s.block.row ((planOf i).receives s.block) = some (.final .wait) := by
    rw [Block.row_start _ hp, hk]
    rfl
  exact exec_final hbusy hr hl ha

/-- The cycle that completes the first Start (rules R58, R149). -/
theorem exec_firstStart_final (i : Instr) {s : State} (hp : s.block.phase = .start) (hk : s.block.k = 7)
    (hl : s.lastWaitCycle) :
    exec i s = .next { s with block := { s.block with
      hbCnt := 0, k := 0, phase := .addr, shreg := addressByte s.block.a (i.op == 4) } } := by
  have after := after_start i (b := s.block.withHbCnt 0) hp s.pay
  exact exec_start_final (.inl hp) hk hl after

/-- The address byte as a number (rule R58). -/
theorem addressByte_toNat (a : Addr) (rw : Bool) : (addressByte a rw).toNat = 2 * a.toNat + rw.toNat := by
  have bit : rw.toNat < 2 ^ 1 := rw.toNat_lt
  rw [addressByte, BitVec.toNat_append, BitVec.toNat_ofBool, ← Nat.shiftLeft_add_eq_or_of_lt bit, Nat.shiftLeft_eq,
    Nat.mul_comm]

/-- Settles O8: the byte's layout is that of `addressByte`'s append, and the transition at the end of a Start loads it. -/
theorem addressByteLayout : Obligations.AddressByteLayout := by
  refine ⟨fun a rw => ⟨?_, fun b hb => ?_, addressByte_toNat a rw⟩, fun i s hp hk hl => ?_,
    fun a r d s hp hk hl => ?_⟩
  · rw [addressByte, BitVec.getLsbD_append, if_pos Nat.one_pos, BitVec.getLsbD_ofBool]
    rfl
  · rw [addressByte, BitVec.getLsbD_append, if_neg (by omega), Nat.add_sub_cancel]
  · refine ⟨_, exec_firstStart_final i hp hk hl, rfl, ?_⟩
    cases i <;> rfl
  · have second : (planOf (.readReg a r d)).after s.pay (s.block.withHbCnt 0) =
        some (s.block.withHbCnt 0).enterSecondAddr := by
      show readRegAfter s.pay _ = _
      simp [readRegAfter, hp]
    exact ⟨_, exec_start_final (.inr hp) hk hl second, rfl, rfl⟩

/-- `WRITE_MULTI` after its address byte (rules R142, R149). -/
theorem writeMultiAfter_addr {b : Block} (hp : b.phase = .addr) (ha : b.ackf = true) (pay : Byte → Byte) :
    writeMultiAfter pay b = some (if b.rl = 0 then b.enterStop else b.enterSend (pay 0)) := by
  simp only [writeMultiAfter, hp, ha, if_true]

/-- `WRITE_MULTI` after a data byte (rules R142, R149). -/
theorem writeMultiAfter_data {b : Block} (hp : b.phase = .data) (ha : b.ackf = true) (pay : Byte → Byte) :
    writeMultiAfter pay b = some (if b.byteI.toNat + 1 < b.rl.toNat then
      b.enterSendAt (b.byteI + 1) (pay (b.byteI + 1)) else b.enterStop) := by
  simp only [writeMultiAfter, hp, ha, if_true]

/-- The cycle that completes a SendByte of `WRITE_MULTI`: its row is the last of the SendByte table. -/
theorem exec_writeMulti_sent {a : Addr} {n d : Byte} {s : State} {b : Block}
    (hp : s.block.phase = .addr ∨ s.block.phase = .data) (hk : s.block.k = 63) (hl : s.lastWaitCycle)
    (ha : writeMultiAfter s.pay (s.block.withHbCnt 0) = some b) :
    exec (.writeMulti a n d) s = .next { s with block := b.withK 0 } := by
  have hbusy : s.block.phase ≠ .idle := by rcases hp with hp | hp <;> simp [hp]
  have hr : s.block.row false = some (.final .wait) := by
    rcases hp with hp | hp <;> simp only [Block.row, hp, hk] <;> rfl
  exact exec_final (i := .writeMulti a n d) hbusy hr hl ha

/-- Settles O27: after the address byte and after a data byte, each clause takes one branch of the transition. -/
theorem writeMultiTransitions : Obligations.WriteMultiTransitions := by
  intro a n d s hl
  have first (hp : s.block.phase = .addr) (ha : s.block.ackf = true) :=
    writeMultiAfter_addr (b := s.block.withHbCnt 0) hp ha s.pay
  have later (hp : s.block.phase = .data) (ha : s.block.ackf = true) :=
    writeMultiAfter_data (b := s.block.withHbCnt 0) hp ha s.pay
  refine ⟨fun hp hk => ?_, fun hp hk ha hrl => ?_, fun hp hk ha hrl => ?_, fun hp hk ha hrl => ?_,
    fun hp hk ha hrl => ?_⟩
  · exact exec_firstStart_final (.writeMulti a n d) hp hk hl
  · exact exec_writeMulti_sent (.inl hp) hk hl ((first hp ha).trans (congrArg some (if_pos hrl)))
  · exact exec_writeMulti_sent (.inl hp) hk hl ((first hp ha).trans (congrArg some (if_neg hrl)))
  · rw [exec_writeMulti_sent (.inr hp) hk hl ((later hp ha).trans (congrArg some (if_pos hrl)))]
    simp only [Block.enterSendAt, Block.enterSend, Block.withHbCnt, Block.withK, hp]
    rfl
  · exact exec_writeMulti_sent (.inr hp) hk hl ((later hp ha).trans (congrArg some (if_neg hrl.not_gt)))

end Sys2Proof.Machine
end

section
/-! PROOFS. The statements of 20_memory.md about what a clock cycle reads, and about the lines in the states the invariant
allows: the command port, the payload memory, the Data line. -/

namespace Sys2Proof.Machine

/-! ### The command port -/

/-- A busy block spends its cycle on the same thing whatever stands on the command port (rules R68, R147). -/
theorem action_withPort {s : State} (hp : s.block.phase ≠ .idle) (valid : Bool) (w : Word) :
    (s.withPort valid w).action = s.action := by
  have block : (s.withPort valid w).block = s.block := rfl
  have rstN : (s.withPort valid w).hostNow.rstN = s.hostNow.rstN := rfl
  simp only [State.action, block, rstN, if_neg hp]

/-- Settles O16: the command port enters a cycle through `State.action` only, and the host's list moves on to the same
cycles. -/
theorem busyIgnoresCommandPort : Obligations.BusyIgnoresCommandPort := by
  intro s valid w hp
  have begin : (s.withPort valid w).beginCycle = s.beginCycle := rfl
  have block : (s.withPort valid w).block = s.block := rfl
  constructor
  · simp only [step, action_withPort hp, begin, block]
  · simp only [State.event, action_withPort hp, block]
    rfl

/-! ### The payload memory -/

/-- Where `WRITE_MULTI` reads the payload memory: byte 0 after the address, the next byte after a data byte (rule R56). -/
theorem Block.payloadRead_some {b : Block} {j : Byte} (h : b.payloadRead = some j) :
    b.ackf = true ∧ (b.phase = .addr ∧ b.rl ≠ 0 ∧ j = 0 ∨
      b.phase = .data ∧ b.byteI.toNat + 1 < b.rl.toNat ∧ j = b.byteI + 1) := by
  unfold Block.payloadRead at h
  cases hp : b.phase <;> simp only [hp, Option.ite_none_right_eq_some, Option.some.injEq, reduceCtorEq] at h
  case addr =>
    obtain ⟨⟨ha, hn⟩, rfl⟩ := h
    exact ⟨ha, .inl ⟨rfl, hn, rfl⟩⟩
  case data =>
    obtain ⟨⟨ha, hn⟩, rfl⟩ := h
    exact ⟨ha, .inr ⟨rfl, hn, rfl⟩⟩

/-- A transition that reads the payload memory sends the byte read, as the data byte with the index read. -/
theorem writeMultiAfter_read {b c : Block} {j : Byte} {pay : Byte → Byte} (hread : b.payloadRead = some j)
    (hfirst : b.phase = .addr → b.byteI = 0) (h : writeMultiAfter pay b = some c) :
    j.toNat < b.rl.toNat ∧ c.phase = .data ∧ c.byteI = j ∧ c.shreg = pay j := by
  obtain ⟨ha, ⟨hp, hn, rfl⟩ | ⟨hp, hn, rfl⟩⟩ := Block.payloadRead_some hread
  · rw [writeMultiAfter_addr hp ha, if_neg hn] at h
    cases h
    exact ⟨by bv_omega, rfl, hfirst hp, rfl⟩
  · rw [writeMultiAfter_data hp ha, if_pos hn] at h
    cases h
    exact ⟨by bv_omega, rfl, rfl, rfl⟩

/-- A transition with no read is the same whatever the payload memory holds. -/
theorem writeMultiAfter_noRead {b : Block} (hread : b.payloadRead = none) (pay pay' : Byte → Byte) :
    writeMultiAfter pay b = writeMultiAfter pay' b := by
  cases ha : b.ackf
  · simp only [writeMultiAfter, ha, Bool.false_eq_true, if_false]
  · cases hp : b.phase <;>
      simp only [Block.payloadRead, hp, ha, true_and, ite_eq_right_iff, reduceCtorEq, imp_false] at hread
    case addr =>
      rw [writeMultiAfter_addr hp ha, writeMultiAfter_addr hp ha, if_pos (not_not.mp hread), if_pos (not_not.mp hread)]
    case data =>
      rw [writeMultiAfter_data hp ha, writeMultiAfter_data hp ha, if_neg hread, if_neg hread]
    all_goals simp only [writeMultiAfter, hp]

/-- Only `WRITE_MULTI`, and only where it reads, depends on the payload memory. -/
theorem after_noRead {i : Instr} {b : Block} (hread : i.op = 2 → b.payloadRead = none) (pay pay' : Byte → Byte) :
    (planOf i).after pay b = (planOf i).after pay' b := by
  cases i with
  | writeMulti => exact writeMultiAfter_noRead (hread rfl) pay pay'
  | _ => rfl

/-- A row's cycle reads the payload memory where it completes a primitive of `WRITE_MULTI` that is followed by a payload
byte, and nowhere else. A poll that gives up leaves `ACKF` = 0, where nothing is read. -/
theorem rowStep_noRead {i : Instr} {du : Nat} {l : Level} {row : MicroRow} {b : Block}
    (hread : i.op = 2 → row.last = true → ∀ c, row.op.run du l b = (c, .done) → c.payloadRead = none)
    (pay pay' : Byte → Byte) :
    (planOf i).rowStep du l pay row b = (planOf i).rowStep du l pay' row b := by
  unfold Plan.rowStep
  cases run : row.op.run du l b with
  | mk c fate =>
    cases fate with
    | hold => rfl
    | done =>
      cases hl : row.last with
      | false => rfl
      | true =>
        simp only [Plan.complete, if_true]
        rw [after_noRead (fun ho => hread ho hl c run) pay pay']
    | giveUp =>
      obtain ⟨-, -, -, -, refused⟩ := MicroOp.run_working run
      have noRead : c.payloadRead = none := by
        by_contra hne
        obtain ⟨j, hj⟩ := Option.ne_none_iff_exists'.mp hne
        have acked := (Block.payloadRead_some hj).1
        simp [refused rfl] at acked
      simp only [Plan.complete, if_true]
      rw [after_noRead (fun _ => noRead) pay pay']

/-- The cycle of a command reads the payload memory at the end of a primitive of `WRITE_MULTI` only. -/
theorem exec_withPayload {i : Instr} {s : State}
    (hread : i.op = 2 → ∀ row, s.block.row ((planOf i).receives s.block) = some row → row.last = true →
      ∀ c, row.op.run s.du s.env.dataLevel s.block = (c, .done) → c.payloadRead = none) (m : Memory) :
    exec i (s.withPayload m) = mapNext (State.withPayload m) (exec i s) := by
  by_cases hp : s.block.phase = .idle
  · rw [exec_idle i hp, exec_idle i (s := s.withPayload m) hp]
    rfl
  · rw [exec_busy i hp, exec_busy i (s := s.withPayload m) hp]
    cases hr : s.block.row ((planOf i).receives s.block) with
    | none =>
      rw [microStep_noRow hr, microStep_noRow (s := s.withPayload m) hr]
      rfl
    | some row =>
      have same := rowStep_noRead (fun ho => hread ho row hr) m.read s.pay
      rw [microStep_afterRow hr, microStep_afterRow (s := s.withPayload m) hr]
      refine (congrArg ((s.withPayload m).afterRow row) same).trans ?_
      cases (planOf i).rowStep s.du s.env.dataLevel s.pay row s.block with
      | none => rfl
      | some b =>
        simp only [State.afterRow, mapNext, MicroRow.useEnv]
        split <;> rfl

/-- Where `pl_addr` has a value, the last row of a primitive of `WRITE_MULTI` is complete and leaves registers from which
payload byte j is read. -/
theorem State.plAddr_some {s : State} {j : Byte} (h : s.plAddr = some j) :
    ∃ a n d row b, s.action = .run (.writeMulti a n d) ∧ s.block.row false = some row ∧ row.last = true ∧
      row.op.run s.du s.env.dataLevel s.block = (b, .done) ∧ b.payloadRead = some j := by
  unfold State.plAddr at h
  split at h
  case h_2 => cases h
  case h_1 a n d ha =>
    split at h
    case h_2 => cases h
    case h_1 row hr =>
      split at h
      case h_2 => cases h
      case h_1 b hl run => exact ⟨a, n, d, row, b, ha, hr, hl, run, h⟩

/-- Where `pl_addr` has none, no payload byte is read. -/
theorem State.plAddr_none {s : State} {i : Instr} {row : MicroRow} {b : Block} (h : s.plAddr = none)
    (ha : s.action = .run i) (ho : i.op = 2) (hr : s.block.row ((planOf i).receives s.block) = some row)
    (hl : row.last = true) (run : row.op.run s.du s.env.dataLevel s.block = (b, .done)) : b.payloadRead = none := by
  cases i with
  | writeMulti a n d =>
    have hr' : s.block.row false = some row := hr
    simpa only [State.plAddr, ha, hr', hl, run] using h
  | _ => simp [Instr.op] at ho

/-- The cycle that completes a primitive's last row makes the command's transition. -/
theorem Plan.rowStep_last {p : Plan} {du : Nat} {l : Level} {pay : Byte → Byte} {row : MicroRow} {b b' c : Block}
    (hl : row.last = true) (run : row.op.run du l b = (b', .done)) (h : p.rowStep du l pay row b = some c) :
    ∃ c', p.after pay b' = some c' ∧ c = c'.withK 0 := by
  simp only [Plan.rowStep, run, Plan.complete, hl, if_true, Option.map_eq_some_iff] at h
  obtain ⟨c', after, rfl⟩ := h
  exact ⟨c', after, rfl⟩

/-- The cycle in which `pl_addr` has a value begins the transfer of the byte there (rules R56, R149). -/
theorem step_payloadRead {s t : State} {j : Byte} (hinv : s.block.Inv s.du) (hread : s.plAddr = some j)
    (hstep : step s = .next t) :
    s.hostNow.rstN = true ∧ s.block.op = 2 ∧ j.toNat < s.block.rl.toNat ∧ t.block.phase = .data ∧
      t.block.byteI = j ∧ t.block.shreg = s.beginCycle.env.payload.read j := by
  obtain ⟨a, n, d, row, b, ha, hr, hl, run, hj⟩ := State.plAddr_some hread
  rcases step_cases hstep with ⟨ha', -⟩ | ⟨ha', -⟩ | ⟨ha', -⟩ | ⟨i, -, -, hp, -⟩ |
    ⟨i, row', c, ha', hrst, -, hc, hr', hrow, rfl⟩
  · simp [ha] at ha'
  · simp [ha] at ha'
  · simp [ha] at ha'
  · simp [Block.row, hp] at hr
  · obtain rfl : .writeMulti a n d = i := Action.run.inj (ha.symm.trans ha')
    rw [← planOf_receives hc] at hr'
    obtain rfl : row = row' := Option.some.inj (hr.symm.trans hr')
    obtain ⟨hop, -⟩ := Block.command_fields hc
    obtain ⟨phase, -, -, -, rl, -, byteI, -⟩ := MicroOp.run_frame run
    have first : b.phase = .addr → b.byteI = 0 := by
      rw [phase, byteI]
      exact fun hp => hinv.byteIndexFirst (.inr (.inl hp))
    obtain ⟨c', after, rfl⟩ := Plan.rowStep_last hl run hrow
    obtain ⟨hlt, hdata, hbyte, hshreg⟩ := writeMultiAfter_read hj first after
    exact ⟨hrst, hop, rl ▸ hlt, hdata, hbyte, hshreg⟩

/-- Settles O36: `pl_addr` is where the transition of `WRITE_MULTI` reads, and nothing else in a step reads the payload
memory. -/
theorem payloadReads : Obligations.PayloadReads := by
  intro s hinv
  refine ⟨fun j t hread hstep => step_payloadRead hinv.block hread hstep, fun hnone m => ?_⟩
  have action : (s.withPayload m).action = s.action := rfl
  have begin : (s.withPayload m).beginCycle = s.beginCycle.withPayload (s.hostNow.store m) := rfl
  unfold step
  rw [action, begin]
  cases ha : s.action with
  | run i =>
    exact exec_withPayload (s := s.beginCycle)
      (fun ho row hr hl c run => State.plAddr_none hnone ha ho hr hl run) (s.hostNow.store m)
  | _ => rfl

/-! ### The Data line at a sample -/

/-- A busy block runs the command in its latch. -/
theorem command_of_action {s : State} {i : Instr} (ha : s.action = .run i) (hp : s.block.phase ≠ .idle) :
    s.block.command = some i := by
  unfold State.action at ha
  rw [if_neg hp] at ha
  split at ha
  · cases ha
  · split at ha
    · cases ha
      assumption
    · cases ha

/-- An event is that of a row in flight. -/
theorem State.event_some {s : State} {e : Event} (h : s.event = some e) :
    ∃ row, s.block.row s.block.receives = some row ∧ row.op.event s.du s.env.dataLevel s.block = some e := by
  have hp : s.block.phase ≠ .idle := fun hp => by simp [event_idle hp] at h
  cases ha : s.action with
  | run i =>
    simp only [State.event, ha, planOf_receives (command_of_action ha hp)] at h
    split at h
    · exact ⟨_, ‹_›, h⟩
    · cases h
  | _ => simp [State.event, ha] at h

/-- At a row that samples the master has released Data: the poll, or a bit of a ReceiveByte (rules R53, R130, R131). -/
theorem Block.levels_sample {b : Block} {row : MicroRow} (hr : b.row b.receives = some row)
    (hs : row.op.samples = true) : b.levels.2 = true := by
  cases ho : row.op with
  | poll => rw [Block.levels_poll hr ho]
  | sampleBit i =>
    obtain ⟨hp, hrec⟩ := Block.row_receive hr (.inr ⟨i, ho⟩)
    simp [Block.levels, hp, hrec, receiveLevels]
  | _ => simp [ho, MicroOp.samples] at hs

/-- Settles O41: a sample's event is that of a row that samples, where the lines are as the position says. -/
theorem sampleFindsDataReleased : Obligations.SampleFindsDataReleased := by
  intro s hinv hsample
  obtain ⟨row, hr, hs⟩ : ∃ row, s.block.row s.block.receives = some row ∧ row.op.samples = true := by
    rcases hsample with h | h <;> obtain ⟨row, hr, he⟩ := State.event_some h
    · exact ⟨row, hr, (MicroOp.samples_iff_event ..).mpr (.inl he)⟩
    · exact ⟨row, hr, (MicroOp.samples_iff_event ..).mpr (.inr he)⟩
  exact (congrArg Prod.snd hinv.block.lines).trans (Block.levels_sample hr hs)

/-! ### Start and Stop conditions -/

/-- Data falls under a high Clock between these levels `(SCL, SDA)` (rule R70). -/
def StartCondition (x y : Level × Level) : Prop := x.1 = true ∧ x.2 = true ∧ y.2 = false

/-- Data rises under a high Clock between these levels `(SCL, SDA)` (rule R70). -/
def StopCondition (x y : Level × Level) : Prop := x.1 = true ∧ x.2 = false ∧ y.2 = true

/-- Where Data stays there is no condition. -/
theorem no_condition {x y : Level × Level} (h : x.1 = true → y.2 = x.2) :
    ¬ StartCondition x y ∧ ¬ StopCondition x y := by
  constructor <;>
  · rintro ⟨hscl, hx, hy⟩
    simp [h hscl, hx] at hy

/-- A Start makes its condition at K = 6 and no other (rules R110, R113). -/
theorem startRow_conditions {k : Nat} {row : MicroRow} (h : startRow k = some row) (v : Byte) :
    (StartCondition (startLevels k) (row.op.drive v (startLevels k)) ↔ k = 6) ∧
    ¬ StopCondition (startLevels k) (row.op.drive v (startLevels k)) := by
  unfold startRow at h
  split at h <;> cases h <;>
    simp [StartCondition, StopCondition, MicroRow.inner, MicroRow.final, MicroOp.drive, startLevels]

/-- A Stop makes its condition at K = 6 and no other (rules R111, R113). -/
theorem stopRow_conditions {k : Nat} {row : MicroRow} (h : stopRow k = some row) (v : Byte) :
    ¬ StartCondition (stopLevels k) (row.op.drive v (stopLevels k)) ∧
    (StopCondition (stopLevels k) (row.op.drive v (stopLevels k)) ↔ k = 6) := by
  unfold stopRow at h
  split at h <;> cases h <;>
    simp [StartCondition, StopCondition, MicroRow.inner, MicroRow.final, MicroOp.drive, stopLevels]

/-- A micro-op that is no `setData` leaves Data where it is (rule R51). -/
theorem MicroOp.drive_data {op : MicroOp} (hset : ∀ l, op ≠ .setData l) (hbit : ∀ i, op ≠ .setDataBit i)
    (hrelease : op ≠ .release) (v : Byte) (x : Level × Level) : (op.drive v x).2 = x.2 := by
  cases op with
  | setData l => exact absurd rfl (hset l)
  | setDataBit i => exact absurd rfl (hbit i)
  | release => exact absurd rfl hrelease
  | _ => rfl

/-- A SendByte moves Data under a low Clock only (rules R113, R120, R121). -/
theorem sendRow_data {k : Nat} (hk : k < 64) (entry : Level) (v : Byte) (hscl : (sendLevels entry v k).1 = true) :
    ((sendRow k).op.drive v (sendLevels entry v k)).2 = (sendLevels entry v k).2 := by
  have table : ∀ k < 64, (sendLevels true 0 k).1 = true →
      (∀ l, (sendRow k).op ≠ .setData l) ∧ (∀ i, (sendRow k).op ≠ .setDataBit i) ∧ (sendRow k).op ≠ .release := by
    decide
  obtain ⟨hset, hbit, hrelease⟩ := table k hk hscl
  exact MicroOp.drive_data hset hbit hrelease v _

/-- A ReceiveByte leaves Data released (rules R125 to R127). -/
theorem receiveRow_data {k : Nat} (hk : k < 64) (v : Byte) :
    ((receiveRow k).op.drive v (receiveLevels k)).2 = (receiveLevels k).2 := by
  interval_cases k <;> rfl

/-- A row makes a condition in the seventh event of a Start or a Stop, and there always (rules R70, R113). -/
theorem Block.row_conditions {b : Block} {row : MicroRow} (hr : b.row b.receives = some row) :
    (StartCondition b.levels (row.op.drive b.shreg b.levels) ↔ (b.phase = .start ∨ b.phase = .rstart) ∧ b.k = 6) ∧
    (StopCondition b.levels (row.op.drive b.shreg b.levels) ↔ b.phase = .stop ∧ b.k = 6) := by
  have six : b.k = 6 ↔ b.k.toNat = 6 := BitVec.toNat_inj.symm
  unfold Block.row at hr
  unfold Block.levels
  rw [six]
  cases hp : b.phase <;> simp only [hp] at hr ⊢
  case idle => cases hr
  case start | rstart =>
    obtain ⟨start, stop⟩ := startRow_conditions hr b.shreg
    simp [start, stop]
  case stop =>
    obtain ⟨start, stop⟩ := stopRow_conditions hr b.shreg
    simp [start, stop]
  case addr =>
    cases hr
    obtain ⟨start, stop⟩ := no_condition (sendRow_data b.k.isLt false b.shreg)
    simp [start, stop]
  case data =>
    cases hrec : b.receives <;> rw [hrec] at hr <;> cases hr
    · obtain ⟨start, stop⟩ := no_condition (sendRow_data b.k.isLt true b.shreg)
      simp [start, stop]
    · obtain ⟨start, stop⟩ := no_condition (fun _ => receiveRow_data b.k.isLt b.shreg)
      simp [start, stop]

/-- Settles O42: in `IDLE` the lines stay; in flight they move from the levels of the position as the row drives them. -/
theorem conditionsOnlyInStartAndStop : Obligations.ConditionsOnlyInStartAndStop := by
  intro s t hinv hrst hstep
  show (StartCondition (s.block.scl, s.block.sda) (t.block.scl, t.block.sda) ↔ _) ∧
    (StopCondition (s.block.scl, s.block.sda) (t.block.scl, t.block.sda) ↔ _)
  rcases step_cases hstep with ⟨-, hreset, -⟩ | ⟨-, -, hp, rfl⟩ | ⟨-, -, hp, rfl⟩ | ⟨i, -, -, hp, rfl⟩ |
    ⟨i, row, b, -, -, -, -, hr, hrow, rfl⟩
  · simp [hrst] at hreset
  iterate 3
    obtain ⟨start, stop⟩ := no_condition (x := (s.block.scl, s.block.sda)) (y := (s.block.scl, s.block.sda)) fun _ => rfl
    exact ⟨iff_of_false start (by simp [hp]), iff_of_false stop (by simp [hp])⟩
  · obtain ⟨b', f, run, hscl, hsda⟩ := rowStep_lines hrow
    have driven : (b.scl, b.sda) = row.op.drive s.block.shreg (s.block.scl, s.block.sda) := by
      rw [hscl, hsda, MicroOp.run_drive run]
    have conditions := Block.row_conditions hr
    rwa [← hinv.block.lines, ← driven] at conditions

end Sys2Proof.Machine
end

section
/-! PROOFS. The statements of 20_memory.md about the event level: what a monitor of the lines sees of each primitive, the
value of a received byte, and the one Stop of every command. -/

namespace Sys2Proof.Machine

/-! ### What a monitor sees of a primitive -/

/-- A monitor after a trace. -/
def Monitor.onTrace (m : Monitor) (t : Trace) : Monitor := t.foldl Monitor.on m

/-- The report is what the monitor has seen, in order. -/
theorem monitorOf_eq (t : Trace) : monitorOf t = (Monitor.init.onTrace t).seen.reverse := rfl

theorem Monitor.onTrace_append (m : Monitor) (t u : Trace) : m.onTrace (t ++ u) = (m.onTrace t).onTrace u :=
  List.foldl_append

/-- A Start shows its condition, whatever the lines were: the bit read in it is dropped (rules R71, R110). -/
theorem Monitor.onTrace_start (m : Monitor) :
    m.onTrace startTrace = { scl := true, sda := false, seen := .start :: m.seen } := rfl

/-- A Stop shows its condition, whatever the lines were: the bit read in it is dropped (rules R71, R111). -/
theorem Monitor.onTrace_stop (m : Monitor) :
    m.onTrace stopTrace = { scl := true, sda := true, seen := .stop :: m.seen } := rfl

/-- A bit slot of SendByte shows its bit (rule R120). -/
theorem Monitor.onTrace_sendSlot (m : Monitor) (x : Level) :
    m.onTrace (sendSlot x) = { scl := true, sda := x, seen := .bit x :: m.seen } := by
  cases x <;> rfl

/-- The acknowledgment slot shows the released level (rule R121). -/
theorem Monitor.onTrace_ackSlot (m : Monitor) :
    m.onTrace ackSlot = { scl := true, sda := true, seen := .bit true :: m.seen } := rfl

/-- A poll moves no line, so it shows nothing (rule R122). -/
theorem Monitor.onTrace_poll (smp : Nat → Level) (bound p : Nat) (m : Monitor) :
    m.onTrace (pollRun smp bound p).trace = m := by
  have highs (n : Nat) : m.onTrace (List.replicate n .sampleHigh) = m := by
    induction n with
    | zero => rfl
    | succ n ih => exact ih
  rcases pollRun_cases smp bound p with ⟨-, q, -, h⟩ | ⟨-, h⟩
  · rw [h, Monitor.onTrace_append, highs]
    rfl
  · rw [h, highs]

/-- What a monitor sees of a SendByte, the latest first: its bits from most to least significant, then the released
level (rule R71). -/
def seenOfByte (v : Byte) : List Seen := .bit true :: (bitOrder.map fun i => .bit (bitOf v i)).reverse

/-- A SendByte shows its byte (rules R71, R124). -/
theorem Monitor.onTrace_sendByte (bound : Nat) (smp : Nat → Level) (p : Nat) (v : Byte) (m : Monitor) :
    m.onTrace (sendByte bound smp p v).trace =
      { scl := true, sda := true, seen := seenOfByte v ++ m.seen } := by
  have waits : ∀ (acked : Bool) (m : Monitor), m.onTrace (if acked then [.wait, .wait] else []) = m := by
    intro acked m
    cases acked <;> rfl
  simp only [sendByte, Monitor.onTrace_append, waits, Monitor.onTrace_poll, Monitor.onTrace_ackSlot, bitOrder,
    List.flatMap_cons, List.flatMap_nil, Monitor.onTrace_sendSlot]
  rfl

/-- Settles O46: a monitor on an idle bus sees the Start's condition, then the byte. -/
theorem monitorReadsByte : Obligations.MonitorReadsByte := by
  intro smp bound p v
  rw [monitorOf_eq, Monitor.onTrace_append, Monitor.onTrace_start, Monitor.onTrace_sendByte]
  rfl

/-- A bit slot of ReceiveByte that finds Data released shows the released level (rule R126). -/
theorem Monitor.onTrace_receiveSlot {m : Monitor} (hsda : m.sda = true) (x : Level) :
    m.onTrace (receiveSlot x) = { scl := true, sda := true, seen := .bit true :: m.seen } := by
  obtain ⟨scl, sda, seen⟩ := m
  cases hsda
  cases x <;> rfl

/-- A ReceiveByte that finds Data released shows nine bits of the released level (rules R125 to R128). -/
theorem Monitor.onTrace_receive {m : Monitor} (hsda : m.sda = true) (smp : Nat → Level) (p : Nat) :
    m.onTrace (receiveTrace smp p) =
      { scl := true, sda := true, seen := List.replicate 9 (.bit true) ++ m.seen } := by
  obtain ⟨scl, sda, seen⟩ := m
  cases hsda
  have release : ∀ seen, ({ scl := scl, sda := true, seen := seen } : Monitor).onTrace [.dataHigh] =
      { scl := scl, sda := true, seen := seen } := by
    intro seen
    cases scl <;> rfl
  simp only [receiveTrace, Monitor.onTrace_append, release, bitOrder, List.flatMap_cons, List.flatMap_nil,
    Monitor.onTrace_receiveSlot]
  rfl

/-! ### The value of a received byte -/

/-- Settles O47: bit b is sample number 7 - b, and the length is that of the slots. -/
theorem receivedValue : Obligations.ReceivedValue := by
  intro smp p
  refine ⟨fun b hb => receiveValue_bit smp p ⟨b, hb⟩, ?_⟩
  simp [receiveTrace, bitOrder, receiveSlot, nackSlot]

/-! ### Running the primitives of a command -/

theorem bodyRun_start (bound : Nat) (smp : Nat → Level) (rest : List Prim) (p : Nat) :
    bodyRun bound smp (.start :: rest) p = (bodyRun bound smp rest p).after startTrace .start := rfl

/-- An acknowledged byte is followed by the rest (rule R140). -/
theorem bodyRun_send_acked {bound : Nat} {smp : Nat → Level} {p : Nat} {v : Byte}
    (h : (sendByte bound smp p v).acked = true) (rest : List Prim) :
    bodyRun bound smp (.send v :: rest) p =
      (bodyRun bound smp rest (sendByte bound smp p v).nextSample).after (sendByte bound smp p v).trace (.sent v true) :=
  if_pos h

/-- A byte that is not acknowledged is the last (rules R140, R173). -/
theorem bodyRun_send_refused {bound : Nat} {smp : Nat → Level} {p : Nat} {v : Byte}
    (h : (sendByte bound smp p v).acked = false) (rest : List Prim) :
    bodyRun bound smp (.send v :: rest) p =
      { trace := (sendByte bound smp p v).trace, tokens := [.sent v false], ok := false, rx := none,
        nextSample := (sendByte bound smp p v).nextSample } :=
  if_neg (by simp [h])

theorem bodyRun_receive (bound : Nat) (smp : Nat → Level) (rest : List Prim) (p : Nat) :
    bodyRun bound smp (.receive :: rest) p =
      { (bodyRun bound smp rest (p + 8)).after (receiveTrace smp p) (.received (receiveValue smp p)) with
        rx := some (receiveValue smp p) } := rfl

/-- No Stop among a command's primitives, and no Start but those planned. -/
theorem bodyRun_tokens (bound : Nat) (smp : Nat → Level) (body : List Prim) (p : Nat) :
    .stop ∉ (bodyRun bound smp body p).tokens ∧
    (bodyRun bound smp body p).tokens.count .start ≤ body.count .start := by
  induction body generalizing p with
  | nil => simp [bodyRun]
  | cons prim rest ih =>
    cases prim with
    | start =>
      obtain ⟨stop, start⟩ := ih p
      simp [bodyRun_start, CommandRun.after, stop, start]
    | receive =>
      obtain ⟨stop, start⟩ := ih (p + 8)
      simp [bodyRun_receive, CommandRun.after, stop, start]
    | send v =>
      cases acked : (sendByte bound smp p v).acked with
      | true =>
        obtain ⟨stop, start⟩ := ih (sendByte bound smp p v).nextSample
        simp [bodyRun_send_acked acked, CommandRun.after, stop, start]
      | false => simp [bodyRun_send_refused acked]

/-- The tokens of a part of a command that came to this result: none is of a byte refused, or the last one alone is. -/
def EndsAsTokens (ok : Bool) (toks : List Token) : Prop :=
  (ok = true ∧ ∀ v, .sent v false ∉ toks) ∨
  (ok = false ∧ ∃ v before, toks = before ++ [.sent v false] ∧ ∀ u, .sent u false ∉ before)

/-- A token of no refused byte in front. -/
theorem EndsAsTokens.cons {ok : Bool} {toks : List Token} (h : EndsAsTokens ok toks) {tok : Token}
    (htok : ∀ v, tok ≠ .sent v false) : EndsAsTokens ok (tok :: toks) := by
  have other : ∀ {l : List Token}, (∀ v, .sent v false ∉ l) → ∀ v, .sent v false ∉ tok :: l := by
    intro l hl v hmem
    rcases List.mem_cons.mp hmem with heq | hmem
    · exact htok v heq.symm
    · exact hl v hmem
  rcases h with ⟨hok, none⟩ | ⟨hok, v, before, rfl, none⟩
  · exact .inl ⟨hok, other none⟩
  · exact .inr ⟨hok, v, tok :: before, rfl, other none⟩

/-- Error exactly when some byte was not acknowledged. -/
theorem EndsAsTokens.error_iff {ok : Bool} {toks : List Token} (h : EndsAsTokens ok toks) :
    ok = false ↔ ∃ v, .sent v false ∈ toks := by
  rcases h with ⟨rfl, none⟩ | ⟨rfl, v, before, rfl, -⟩
  · simp [none]
  · exact iff_of_true rfl ⟨v, by simp⟩

/-- A byte that was not acknowledged is the last one, and the only one. -/
theorem EndsAsTokens.refused_last {ok : Bool} {toks : List Token} (h : EndsAsTokens ok toks) {v : Byte}
    (hv : .sent v false ∈ toks) : ∃ before, toks = before ++ [.sent v false] ∧ ∀ u, .sent u false ∉ before := by
  rcases h with ⟨-, none⟩ | ⟨-, w, before, rfl, none⟩
  · exact absurd hv (none v)
  · rcases List.mem_append.mp hv with hv | hv
    · exact absurd hv (none v)
    · cases List.mem_singleton.mp hv
      exact ⟨before, rfl, none⟩

/-- The first byte not acknowledged is the last token and makes the result Error (rules R140, R173). -/
theorem bodyRun_endsAsTokens (bound : Nat) (smp : Nat → Level) (body : List Prim) (p : Nat) :
    EndsAsTokens (bodyRun bound smp body p).ok (bodyRun bound smp body p).tokens := by
  induction body generalizing p with
  | nil => exact .inl ⟨rfl, by simp [bodyRun]⟩
  | cons prim rest ih =>
    cases prim with
    | start => exact (ih p).cons (by simp)
    | receive => exact (ih (p + 8)).cons (by simp)
    | send v =>
      cases acked : (sendByte bound smp p v).acked with
      | true =>
        rw [bodyRun_send_acked acked]
        exact (ih _).cons (by simp)
      | false =>
        rw [bodyRun_send_refused acked]
        exact .inr ⟨rfl, v, [], rfl, by simp⟩

/-- Every ReceiveByte finds Data released: it follows a byte, not a Start. `sda` is Data before the first primitive. -/
def ReceivesReleased : Level → List Prim → Prop
  | _, [] => True
  | _, .start :: rest => ReceivesReleased false rest
  | _, .send _ :: rest => ReceivesReleased true rest
  | sda, .receive :: rest => sda = true ∧ ReceivesReleased true rest

/-- What a monitor has seen, the latest first, is no Stop condition and as many Start conditions as the tokens name. -/
def SeesStarts (toks : List Token) (seen : List Seen) : Prop :=
  seen.count .stop = 0 ∧ seen.count .start = toks.count .start

/-- A token in front, with what is seen of it, which is earlier. -/
theorem SeesStarts.cons {toks : List Token} {seen : List Seen} (h : SeesStarts toks seen) {tok : Token}
    {first : List Seen} (hfirst : SeesStarts [tok] first) : SeesStarts (tok :: toks) (seen ++ first) := by
  obtain ⟨stop, start⟩ := h
  obtain ⟨stop', start'⟩ := hfirst
  constructor
  · rw [List.count_append, stop, stop']
  · rw [List.count_append, start, start', Nat.add_comm]
    exact List.count_append.symm

/-- A monitor sees of this run the Starts of its tokens and no other condition. -/
def CommandRun.ShowsStarts (r : CommandRun) (m : Monitor) : Prop :=
  ∃ seen, (m.onTrace r.trace).seen = seen ++ m.seen ∧ SeesStarts r.tokens seen

/-- A primitive in front, which a monitor leaves with this much more seen. -/
theorem CommandRun.ShowsStarts.after {r : CommandRun} {m : Monitor} {tr : Trace} {tok : Token} {scl sda : Level}
    {first : List Seen} (htr : m.onTrace tr = { scl := scl, sda := sda, seen := first ++ m.seen })
    (hfirst : SeesStarts [tok] first) (h : r.ShowsStarts { scl := scl, sda := sda, seen := first ++ m.seen }) :
    (r.after tr tok).ShowsStarts m := by
  obtain ⟨seen, hseen, starts⟩ := h
  refine ⟨seen ++ first, ?_, starts.cons hfirst⟩
  rw [CommandRun.after, Monitor.onTrace_append, htr, hseen, List.append_assoc]

/-- A monitor sees of a command's primitives their Starts and no other condition (rules R70, R113). -/
theorem bodyRun_showsStarts (bound : Nat) (smp : Nat → Level) {body : List Prim} {m : Monitor}
    (h : ReceivesReleased m.sda body) (p : Nat) : (bodyRun bound smp body p).ShowsStarts m := by
  have byte (v : Byte) (acked : Bool) : SeesStarts [.sent v acked] (seenOfByte v) := ⟨rfl, rfl⟩
  induction body generalizing p m with
  | nil => exact ⟨[], rfl, rfl, rfl⟩
  | cons prim rest ih =>
    cases prim with
    | start => exact .after (first := [.start]) m.onTrace_start ⟨rfl, rfl⟩ (ih h p)
    | receive =>
      obtain ⟨hsda, h⟩ := h
      exact .after (Monitor.onTrace_receive hsda smp p) ⟨rfl, rfl⟩ (ih h (p + 8))
    | send v =>
      have sent := m.onTrace_sendByte bound smp p v
      cases acked : (sendByte bound smp p v).acked with
      | true =>
        rw [bodyRun_send_acked acked]
        exact .after sent (byte v true) (ih h _)
      | false =>
        rw [bodyRun_send_refused acked]
        exact ⟨seenOfByte v, congrArg Monitor.seen sent, byte v false⟩

/-! ### The one Stop of a command -/

/-- Every command begins with a Start and plans one more in `READ_REG` only; a ReceiveByte follows its address byte
(rules R141 to R145). -/
theorem commandBody_shape (pay : Byte → Byte) (i : Instr) :
    ∃ rest, commandBody pay i = .start :: rest ∧ ReceivesReleased false rest ∧
      (rest.count .start = 0 ∨ rest.count .start = 1 ∧ i.op = 5) := by
  have sends (l : List Nat) (f : Nat → Byte) (sda : Level) : ReceivesReleased sda (l.map fun j => .send (f j)) := by
    induction l generalizing sda with
    | nil => trivial
    | cons j rest ih => exact ih true
  cases i with
  | writeMulti a n d =>
    refine ⟨_, rfl, sends (List.range n.toNat) _ true, .inl (List.count_eq_zero.mpr ?_)⟩
    simp
  | readReg a r d => exact ⟨_, rfl, by simp [ReceivesReleased], .inr ⟨rfl, rfl⟩⟩
  | _ => exact ⟨_, rfl, by simp [ReceivesReleased], .inl rfl⟩

/-- A command is its first Start, the primitives after it, and one Stop on every path (rule R140). -/
theorem commandRun_of_body {bound : Nat} {smp : Nat → Level} {pay : Byte → Byte} {p : Nat} {i : Instr} {rest : List Prim}
    (body : commandBody pay i = .start :: rest) :
    commandRun bound smp pay p i =
      { bodyRun bound smp rest p with
        trace := startTrace ++ (bodyRun bound smp rest p).trace ++ stopTrace
        tokens := .start :: (bodyRun bound smp rest p).tokens ++ [.stop] } := by
  rw [commandRun, body, bodyRun_start]
  rfl

/-- Settles O48: the first Start is split off, the primitives after it run by the lemmas above, and the Stop is what every
path adds. -/
theorem stopOnEveryPath : Obligations.StopOnEveryPath := by
  intro smp pay bound p i
  obtain ⟨rest, body, released, starts⟩ := commandBody_shape pay i
  obtain ⟨noStop, count⟩ := bodyRun_tokens bound smp rest p
  have ends := bodyRun_endsAsTokens bound smp rest p
  obtain ⟨seen, hseen, seenStop, seenStart⟩ :=
    bodyRun_showsStarts (m := Monitor.init.onTrace startTrace) bound smp released p
  have monitor : Monitor.init.onTrace (startTrace ++ (bodyRun bound smp rest p).trace ++ stopTrace) =
      { scl := true, sda := true, seen := .stop :: (seen ++ [.start]) } := by
    rw [Monitor.onTrace_append, Monitor.onTrace_append, Monitor.onTrace_stop, hseen]
    rfl
  rw [commandRun_of_body body]
  refine ⟨(bodyRun bound smp rest p).trace, (bodyRun bound smp rest p).tokens, seen.reverse, rfl, ?_, ?_, ?_, rfl,
    noStop, ?_, ends.error_iff, fun v hv => ends.refused_last hv, congrArg Monitor.scl monitor,
    congrArg Monitor.sda monitor⟩
  · rw [monitorOf_eq, monitor]
    simp
  · rw [List.count_reverse, seenStop]
  · rw [List.count_reverse, seenStart]
  · rcases starts with none | ⟨one, ho⟩
    · exact .inl (by omega)
    · rcases Nat.le_one_iff_eq_zero_or_eq_one.mp (one ▸ count) with none | one
      · exact .inl none
      · exact .inr ⟨one, ho⟩

end Sys2Proof.Machine
end

section
/-! PROOFS. The statements of 30_encoding.md about words: decoding and encoding are each other's inverse, the legal words are
those of the mask of rule R93, and the ignored fields do not tell commands apart. -/

namespace Sys2Proof

/-! ### Decoding by fields -/

/-- A word whose reserved fields are 0 is the command of its other fields (rule R93). -/
theorem decode_eq_command {w : Word} {i : Instr} (hz1 : z1Field w = 0) (hz0 : z0Field w = 0)
    (hc : commandOf (opField w) (addrField w) (regLenField w) (dataField w) = some i) : decode w = .command i := by
  simp [decode, hz1, hz0, hc]

/-- `OP` selects a command when it is 1 to 5 (rule R82). -/
theorem commandOf_some_iff (op : BitVec 3) (a : Addr) (rl dat : Byte) :
    (∃ i, commandOf op a rl dat = some i) ↔ op ∈ ([1, 2, 3, 4, 5] : List (BitVec 3)) := by
  constructor
  · rintro ⟨i, hi⟩
    obtain ⟨rfl, -⟩ := commandOf_fields hi
    cases i <;> simp [Instr.op]
  · simp only [List.mem_cons, List.not_mem_nil, or_false]
    rintro (rfl | rfl | rfl | rfl | rfl) <;> exact ⟨_, rfl⟩

/-- The command with this command's `OP` and `ADDR` and other operands. -/
def Instr.withOperands (rl dat : Byte) : Instr → Instr
  | .writeByte a _ _ => .writeByte a rl dat
  | .writeMulti a _ _ => .writeMulti a rl dat
  | .writeReg a _ _ => .writeReg a rl dat
  | .readByte a _ _ => .readByte a rl dat
  | .readReg a _ _ => .readReg a rl dat

/-- A command's `OP` and `ADDR` select the command, whatever the operands (rule R82). -/
theorem commandOf_withOperands (i : Instr) (rl dat : Byte) :
    commandOf i.op i.addr rl dat = some (i.withOperands rl dat) := by
  cases i <;> rfl

theorem Instr.withOperands_self (i : Instr) : i.withOperands i.regLen i.data = i := by
  cases i <;> rfl

/-- Settles O1: the fields of a command's word are the command's, and these fields select it. -/
theorem decodeEncode : Obligations.DecodeEncode := by
  intro i
  obtain ⟨hop, hz0, haddr, hz1, hrl, hdat⟩ := encode_fields i
  apply decode_eq_command hz1 hz0
  rw [hop, haddr, hrl, hdat, commandOf_withOperands, i.withOperands_self]

/-- Settles O2: a legal word's fields are its command's and its reserved fields are 0, and the word is its fields side by
side. -/
theorem encodeDecode : Obligations.EncodeDecode := by
  intro w i h
  obtain ⟨hz1, hz0, hc⟩ := decode_command h
  obtain ⟨hop, haddr, hrl, hdat⟩ := commandOf_fields hc
  calc encode i
      = dataField w ++ regLenField w ++ z1Field w ++ addrField w ++ z0Field w ++ opField w := by
        rw [hop, haddr, hrl, hdat, hz1, hz0]
        rfl
    _ = w := word_of_fields w

/-! ### The mask of the legal words -/

/-- The mask of rule R93 keeps the reserved fields and `OP`, and clears the rest (rules R81, R83). -/
theorem and_legalMask (w : Word) :
    w &&& 0x000080FF = (0#16 ++ z1Field w ++ 0#7 ++ z0Field w ++ opField w : Word) := by
  unfold z1Field z0Field opField
  apply BitVec.eq_of_getLsbD_eq
  intro k hk
  simp only [BitVec.getLsbD_and, BitVec.getLsbD_extractLsb', BitVec.getLsbD_append]
  interval_cases k <;> simp

/-- Masked bits of 1 to 5 are reserved fields of 0 beside an `OP` of 1 to 5 (rule R86). -/
theorem mem_legal_iff (w : Word) :
    w &&& 0x000080FF ∈ ([1, 2, 3, 4, 5] : List Word) ↔
      z1Field w = 0 ∧ z0Field w = 0 ∧ opField w ∈ ([1, 2, 3, 4, 5] : List (BitVec 3)) := by
  have key : ∀ (z1 : BitVec 1) (z0 : BitVec 5) (op : BitVec 3),
      (0#16 ++ z1 ++ 0#7 ++ z0 ++ op : Word) ∈ ([1, 2, 3, 4, 5] : List Word) ↔
        z1 = 0 ∧ z0 = 0 ∧ op ∈ ([1, 2, 3, 4, 5] : List (BitVec 3)) := by decide
  rw [and_legalMask]
  exact key _ _ _

/-- A word is a command when its masked bits are 1 to 5 (rule R93). -/
theorem decode_command_iff (w : Word) :
    (∃ i, decode w = .command i) ↔ w &&& 0x000080FF ∈ ([1, 2, 3, 4, 5] : List Word) := by
  rw [mem_legal_iff, ← commandOf_some_iff _ (addrField w) (regLenField w) (dataField w)]
  constructor
  · rintro ⟨i, h⟩
    obtain ⟨hz1, hz0, hc⟩ := decode_command h
    exact ⟨hz1, hz0, i, hc⟩
  · rintro ⟨hz1, hz0, i, hc⟩
    exact ⟨i, decode_eq_command hz1 hz0 hc⟩

/-- A word is illegal or a command, and not both. -/
theorem decode_illegal_iff (w : Word) : (∃ why, decode w = .illegal why) ↔ ¬ ∃ i, decode w = .command i := by
  cases decode w <;> simp

/-- Settles O3: the mask keeps the reserved fields and `OP`, and by these a word is legal. -/
theorem legalByMask : Obligations.LegalByMask := fun w =>
  ⟨decode_command_iff w, (decode_illegal_iff w).trans (not_congr (decode_command_iff w))⟩

/-- Settles O4: a word outside the mask is illegal; inside it the reserved fields are 0, and `OP` selects the command. -/
theorem decodingInFull : Obligations.DecodingInFull := by
  intro w
  refine ⟨(legalByMask w).2.mpr, fun legal => ?_⟩
  obtain ⟨hz1, hz0, -⟩ := (mem_legal_iff w).mp legal
  have selects {op : BitVec 3} {i : Instr} (hop : opField w = op)
      (hc : commandOf op (addrField w) (regLenField w) (dataField w) = some i) : decode w = .command i :=
    decode_eq_command hz1 hz0 (hop ▸ hc)
  exact ⟨fun h => selects h rfl, fun h => selects h rfl, fun h => selects h rfl, fun h => selects h rfl,
    fun h => selects h rfl⟩

/-- Settles O5: the decoder computes each of these words. -/
theorem workedWords : Obligations.WorkedWords := by
  unfold Obligations.WorkedWords
  decide

/-! ### Words that differ in ignored fields -/

/-- Words that agree on a mask agree on the bits of a narrower mask. -/
theorem and_eq_of_narrower {w v m n : Word} (h : w &&& m = v &&& m) (hn : m &&& n = n) : w &&& n = v &&& n := by
  rw [← hn, ← BitVec.and_assoc, h, BitVec.and_assoc]

/-- Words that agree on a mask agree on every field that the mask keeps whole. -/
theorem extractLsb'_eq_of_and {w v m : Word} (h : w &&& m = v &&& m) {start len : Nat}
    (hm : m.extractLsb' start len = BitVec.allOnes len) : w.extractLsb' start len = v.extractLsb' start len := by
  have := congrArg (BitVec.extractLsb' start len) h
  simpa only [BitVec.extractLsb'_and, hm, BitVec.and_allOnes] using this

/-- The lower half of a word, `OP`, `ADDR` and the reserved fields, says whether the word is legal and which command it
is; the upper half holds the operands (rules R81, R93). -/
theorem decode_of_lowerHalf {w v : Word} {i : Instr} (h : decode w = .command i)
    (low : w &&& 0x0000FFFF = v &&& 0x0000FFFF) :
    decode v = .command (i.withOperands (regLenField v) (dataField v)) := by
  obtain ⟨hz1, hz0, hc⟩ := decode_command h
  obtain ⟨hop, haddr, -⟩ := commandOf_fields hc
  apply decode_eq_command ((extractLsb'_eq_of_and low rfl).symm.trans hz1)
    ((extractLsb'_eq_of_and low rfl).symm.trans hz0)
  rw [show opField v = i.op from (extractLsb'_eq_of_and low rfl).symm.trans hop,
    show addrField v = i.addr from (extractLsb'_eq_of_and low rfl).symm.trans haddr]
  exact commandOf_withOperands i _ _

/-- Settles O6: every mask keeps the lower half, which selects the command, and the operands the command uses, and the
canonical form keeps no other. -/
theorem ignoredFieldsSameCommand : Obligations.IgnoredFieldsSameCommand := by
  intro w v i hw hmask
  obtain ⟨-, -, hc⟩ := decode_command hw
  obtain ⟨-, -, hrl, hdat⟩ := commandOf_fields hc
  have low : w &&& 0x0000FFFF = v &&& 0x0000FFFF := by
    cases i <;> dsimp only at hmask <;> exact and_eq_of_narrower hmask rfl
  refine ⟨_, decode_of_lowerHalf hw low, ?_⟩
  have rl (h : w.extractLsb' 16 8 = v.extractLsb' 16 8) : regLenField v = i.regLen := h.symm.trans hrl
  have dat (h : w.extractLsb' 24 8 = v.extractLsb' 24 8) : dataField v = i.data := h.symm.trans hdat
  cases i <;> dsimp only at hmask
  case writeByte a r d => exact congrArg (Instr.writeByte a 0) (dat (extractLsb'_eq_of_and hmask rfl))
  case writeMulti a n d => exact congrArg (Instr.writeMulti a · 0) (rl (extractLsb'_eq_of_and hmask rfl))
  case writeReg a r d =>
    exact congrArg₂ (Instr.writeReg a) (rl (extractLsb'_eq_of_and hmask rfl)) (dat (extractLsb'_eq_of_and hmask rfl))
  case readByte a r d => rfl
  case readReg a r d => exact congrArg (Instr.readReg a · 0) (rl (extractLsb'_eq_of_and hmask rfl))

end Sys2Proof
end

section
/-! PROOFS. The statement of 30_encoding.md about the latch: an ignored field left in it changes nothing a busy command
does. -/

namespace Sys2Proof.Machine

/-- The registers with other operands in the latch. -/
def Block.mapOperands (f g : Byte → Byte) (b : Block) : Block := { b with rl := f b.rl, dat := g b.dat }

/-- The state with other operands in the latch. -/
def State.mapOperands (f g : Byte → Byte) (s : State) : State := { s with block := s.block.mapOperands f g }

section
variable {f g : Byte → Byte}

@[simp] theorem Block.mapOperands_phase (b : Block) : (b.mapOperands f g).phase = b.phase := rfl
@[simp] theorem Block.mapOperands_rl (b : Block) : (b.mapOperands f g).rl = f b.rl := rfl
@[simp] theorem Block.mapOperands_byteI (b : Block) : (b.mapOperands f g).byteI = b.byteI := rfl
@[simp] theorem Block.mapOperands_rs (b : Block) : (b.mapOperands f g).rs = b.rs := rfl
@[simp] theorem Block.mapOperands_ackf (b : Block) : (b.mapOperands f g).ackf = b.ackf := rfl
@[simp] theorem Block.mapOperands_pollCnt (b : Block) : (b.mapOperands f g).pollCnt = b.pollCnt := rfl
@[simp] theorem Block.mapOperands_hbCnt (b : Block) : (b.mapOperands f g).hbCnt = b.hbCnt := rfl

/-- The position's row does not depend on the operands. -/
theorem row_mapOperands (i : Instr) (b : Block) :
    (b.mapOperands f g).row ((planOf i).receives (b.mapOperands f g)) = b.row ((planOf i).receives b) := by
  cases i <;> rfl

/-- A micro-op neither reads nor writes the operands. -/
theorem MicroOp.run_mapOperands (du : Nat) (l : Level) (b : Block) (op : MicroOp) :
    op.run du l (b.mapOperands f g) = ((op.run du l b).1.mapOperands f g, (op.run du l b).2) := by
  cases op with
  | wait =>
    by_cases last : b.hbCnt.toNat + 1 = du <;> simp [MicroOp.run, Block.waitCycle, last] <;> rfl
  | poll =>
    cases l with
    | false => rfl
    | true =>
      by_cases last : b.pollCnt.toNat + 1 = pollBound du <;> simp [MicroOp.run, Block.pollSample, last] <;> rfl
  | _ => rfl

/-- A row does not depend on the operands where the command's transitions do not. -/
theorem Plan.rowStep_mapOperands {p : Plan} {pay : Byte → Byte}
    (hafter : ∀ b, p.after pay (b.mapOperands f g) = (p.after pay b).map (Block.mapOperands f g))
    (du : Nat) (l : Level) (row : MicroRow) (b : Block) :
    p.rowStep du l pay row (b.mapOperands f g) = (p.rowStep du l pay row b).map (Block.mapOperands f g) := by
  have complete (last : Bool) (b : Block) :
      p.complete pay last (b.mapOperands f g) = (p.complete pay last b).map (Block.mapOperands f g) := by
    cases last with
    | false => rfl
    | true =>
      simp only [Plan.complete, if_true, hafter, Option.map_map]
      rfl
  unfold Plan.rowStep
  rw [MicroOp.run_mapOperands]
  obtain ⟨c, fate⟩ := row.op.run du l b
  cases fate with
  | hold => rfl
  | done => exact complete row.last c
  | giveUp => exact complete true c

/-- A clock cycle of a busy command does not depend on the operands where the command's transitions do not. -/
theorem exec_mapOperands {i : Instr} {s : State} (hp : s.block.phase ≠ .idle)
    (hafter : ∀ b, (planOf i).after s.pay (b.mapOperands f g) =
      ((planOf i).after s.pay b).map (Block.mapOperands f g)) :
    exec i (s.mapOperands f g) = mapNext (State.mapOperands f g) (exec i s) := by
  have hrow : (s.mapOperands f g).block.row ((planOf i).receives (s.mapOperands f g).block) =
      s.block.row ((planOf i).receives s.block) := row_mapOperands i s.block
  rw [exec_busy i hp, exec_busy i (s := s.mapOperands f g) hp]
  cases hr : s.block.row ((planOf i).receives s.block) with
  | none =>
    rw [microStep_noRow hr, microStep_noRow (hrow.trans hr)]
    rfl
  | some row =>
    rw [microStep_afterRow hr, microStep_afterRow (hrow.trans hr)]
    refine (congrArg ((s.mapOperands f g).afterRow row)
      (Plan.rowStep_mapOperands hafter s.du s.env.dataLevel row s.block)).trans ?_
    cases (planOf i).rowStep s.du s.env.dataLevel s.pay row s.block <;> rfl

end

/-- `WRITE_BYTE` does not read `RL` (rule R83). -/
theorem writeByteAfter_mapOperands (f : Byte → Byte) (pay : Byte → Byte) (b : Block) :
    writeByteAfter pay (b.mapOperands f id) = (writeByteAfter pay b).map (Block.mapOperands f id) := by
  simp only [writeByteAfter, Block.mapOperands_phase, Block.mapOperands_ackf]
  cases b.phase with
  | addr | data => simp only [Option.map_some, apply_ite (Block.mapOperands f id)]; rfl
  | _ => rfl

/-- `WRITE_MULTI` does not read `DAT` (rule R83). -/
theorem writeMultiAfter_mapOperands (g : Byte → Byte) (pay : Byte → Byte) (b : Block) :
    writeMultiAfter pay (b.mapOperands id g) = (writeMultiAfter pay b).map (Block.mapOperands id g) := by
  simp only [writeMultiAfter, Block.mapOperands_phase, Block.mapOperands_ackf, Block.mapOperands_rl,
    Block.mapOperands_byteI, id]
  cases b.phase with
  | addr | data => simp only [Option.map_some, apply_ite (Block.mapOperands id g)]; rfl
  | _ => rfl

/-- `READ_BYTE` reads neither operand (rule R83). -/
theorem readByteAfter_mapOperands (f g : Byte → Byte) (pay : Byte → Byte) (b : Block) :
    readByteAfter pay (b.mapOperands f g) = (readByteAfter pay b).map (Block.mapOperands f g) := by
  simp only [readByteAfter, Block.mapOperands_phase, Block.mapOperands_ackf]
  cases b.phase with
  | addr | data => simp only [Option.map_some, apply_ite (Block.mapOperands f g)]; rfl
  | _ => rfl

/-- `READ_REG` does not read `DAT` (rule R83). -/
theorem readRegAfter_mapOperands (g : Byte → Byte) (pay : Byte → Byte) (b : Block) :
    readRegAfter pay (b.mapOperands id g) = (readRegAfter pay b).map (Block.mapOperands id g) := by
  simp only [readRegAfter, Block.mapOperands_phase, Block.mapOperands_ackf, Block.mapOperands_rs]
  cases b.phase with
  | addr | data => simp only [Option.map_some, apply_ite (Block.mapOperands id g)]; rfl
  | _ => rfl

/-- Other contents of `RL` alone. -/
theorem State.withRl_eq (x : Byte) : State.withRl x = State.mapOperands (fun _ => x) id := rfl

/-- Other contents of `DAT` alone. -/
theorem State.withDat_eq (y : Byte) : State.withDat y = State.mapOperands id (fun _ => y) := rfl

/-- Other contents of both operands. -/
theorem State.withRl_withDat_eq (x y : Byte) :
    (fun s => (State.withRl x s).withDat y) = State.mapOperands (fun _ => x) (fun _ => y) := rfl

/-- Settles O7: neither the rows nor the micro-ops read the operands, and each command's transitions leave its ignored
operands unread. -/
theorem ignoredFieldsNoEffect : Obligations.IgnoredFieldsNoEffect := by
  intro s x y a r d hp
  have both : (s.withRl x).withDat y = s.mapOperands (fun _ => x) (fun _ => y) := rfl
  rw [both, State.withRl_withDat_eq, State.withRl_eq, State.withDat_eq]
  exact ⟨exec_mapOperands hp (writeByteAfter_mapOperands (fun _ => x) s.pay),
    exec_mapOperands hp (writeMultiAfter_mapOperands (fun _ => y) s.pay),
    exec_mapOperands hp (readByteAfter_mapOperands (fun _ => x) (fun _ => y) s.pay),
    exec_mapOperands hp (readRegAfter_mapOperands (fun _ => y) s.pay)⟩

end Sys2Proof.Machine
end

section
/-! PROOFS. The statements of 40_timing_primitive.md about the wait: a cycle that only counts, and the `DELAY_UNITS` cycles
of a whole wait (rule R101). -/

namespace Sys2Proof.Machine

/-- A wait takes no sample. -/
theorem MicroRow.useEnv_wait {row : MicroRow} (ho : row.op = .wait) (e : Env) : row.useEnv e = e := by
  simp [MicroRow.useEnv, ho, MicroOp.samples]

/-- Settles O18: a wait that is not over holds its position and uses no input. -/
theorem waitHolds : Obligations.WaitHolds := by
  intro i s row hp hc hr ho hl
  have hold : row.op.run s.du s.env.dataLevel s.block = (s.block.withHbCnt (s.block.hbCnt + 1), .hold) := by
    rw [ho]
    exact Block.waitCycle_hold hl
  rw [exec_hold hp (by rwa [planOf_receives hc]) hold, MicroRow.useEnv_wait ho]
  rfl

/-- A wait emits its event in its last clock cycle only (rule R10). -/
theorem MicroOp.event_wait (du : Nat) (l : Level) (b : Block) :
    MicroOp.wait.event du l b = if b.hbCnt.toNat + 1 = du then some .wait else none := by
  by_cases last : b.hbCnt.toNat + 1 = du
  · simp [MicroOp.event, Block.waitCycle_last last, last]
  · simp [MicroOp.event, Block.waitCycle_hold last, last]

/-- The completion of a row leaves the half-bit counter alone. -/
theorem complete_hbCnt {i : Instr} {pay : Byte → Byte} {last : Bool} {b c : Block}
    (h : (planOf i).complete pay last b = some c) : c.hbCnt = b.hbCnt := by
  cases last with
  | false =>
    cases h
    rfl
  | true =>
    obtain ⟨d, hafter, rfl⟩ := Option.map_eq_some_iff.mp h
    obtain ⟨-, -, -, -, -, -, -, -, -, same, -⟩ := after_frame hafter
    exact same

/-- What the last clock cycle of a wait can do: the wait's row is complete (rules R101, R148). -/
theorem exec_lastWaitCycle {i : Instr} {s t : State} {row : MicroRow} (hp : s.block.phase ≠ .idle)
    (hr : s.block.row ((planOf i).receives s.block) = some row) (ho : row.op = .wait) (hl : s.lastWaitCycle)
    (h : exec i s = .next t) :
    ∃ b, (planOf i).complete s.pay row.last (s.block.withHbCnt 0) = some b ∧ t = { s with block := b } := by
  have done : (planOf i).rowStep s.du s.env.dataLevel s.pay row s.block =
      (planOf i).complete s.pay row.last (s.block.withHbCnt 0) := by
    simp [Plan.rowStep, ho, MicroOp.run, Block.waitCycle_last hl]
  rw [exec_row hp hr, done, MicroRow.useEnv_wait ho] at h
  split at h
  · cases h
  · rename_i b hb
    exact ⟨b, hb, by simpa using h.symm⟩

/-- The bounds of `DELAY_UNITS` (rule R7). -/
theorem delayUnits_bounds (d : DelayUnits) : 1 ≤ delayUnits d ∧ delayUnits d ≤ 65535 :=
  ⟨Nat.succ_pos _, d.isLt⟩

/-- Settles O19: the cycles before the last only count; the last completes the wait's row, as `exec` says of it. -/
theorem waitTakesDelayUnits : Obligations.WaitTakesDelayUnits := by
  intro i s row hp hc hr ho hk
  obtain ⟨hlow, hhigh⟩ : 1 ≤ s.du ∧ s.du ≤ 65535 := delayUnits_bounds s.delay
  refine ⟨fun n hn hold => ?_, fun hold hlast => ?_, fun hold t ht => ?_⟩
  · obtain ⟨run, trace⟩ := runs_wait_count hp hc hr ho 0 n (by simp [hk]) (by omega) hold
    rw [Nat.zero_add] at run
    refine ⟨_, run, rfl, trace, fun hrst => ?_⟩
    have counted : (BitVec.ofNat 16 n).toNat = n := by
      rw [BitVec.toNat_ofNat]
      omega
    rw [event_inFlight (action_inFlight hrst hp hc) hc hr, ho, MicroOp.event_wait, Block.withHbCnt_hbCnt, counted]
    rfl
  · have next : (planOf i).complete s.pay row.last s.block = some (s.block.withK (s.block.k + 1)) := by
      rw [hlast]
      rfl
    rw [← hk]
    exact runs_wait hp hc hr ho hk hold next
  · obtain ⟨count, hcount, hlast⟩ : ∃ c, BitVec.ofNat 16 (s.du - 1) = c ∧ c.toNat + 1 = s.du :=
      ⟨_, rfl, by rw [BitVec.toNat_ofNat]; omega⟩
    have hrow : (s.block.withHbCnt count).row ((planOf i).receives (s.block.withHbCnt count)) = some row := by
      rw [planOf_receives (b := s.block.withHbCnt count) hc]
      exact hr
    have cleared : (s.block.withHbCnt count).withHbCnt 0 = s.block := by
      rw [← hk]
      rfl
    rw [hcount] at ht
    obtain ⟨b, hb, rfl⟩ := exec_lastWaitCycle (s := { s with block := s.block.withHbCnt count }) hp hrow ho hlast ht
    have complete : (planOf i).complete s.pay _ s.block = some b := cleared ▸ hb
    exact ⟨(complete_hbCnt complete).trans hk, runs_wait hp hc hr ho hk hold complete⟩

end Sys2Proof.Machine
end

section
/-! PROOFS. The statements of 40_timing_primitive.md about the event level: the bound of a poll (rule R102), and the length
of each command in clock cycles (rule R203). -/

namespace Sys2Proof.Machine

/-! ### The two ends of a poll -/

/-- A poll whose first sample reads low is acknowledged there (rule R122). -/
theorem pollRun_firstLow {smp : Nat → Level} {bound p : Nat} (hb : 0 < bound) (h : smp p = false) :
    pollRun smp bound p = { trace := [.sampleLow], acked := true, nextSample := p + 1 } := by
  obtain ⟨left, rfl⟩ := Nat.exists_eq_succ_of_ne_zero hb.ne'
  simp [pollRun, h]

/-- A poll that no low level answers takes every sample it is allowed (rule R122). -/
theorem pollRun_unanswered {smp : Nat → Level} {bound p : Nat} (h : ∀ q, q < bound → smp (p + q) = true) :
    pollRun smp bound p =
      { trace := List.replicate bound .sampleHigh, acked := false, nextSample := p + bound } := by
  induction bound generalizing p with
  | zero => rfl
  | succ left ih =>
    have first : smp p = true := h 0 (Nat.succ_pos left)
    have rest := ih (p := p + 1) fun q hq => by
      rw [Nat.add_right_comm]
      exact h (q + 1) (Nat.succ_lt_succ hq)
    simp [pollRun, first, rest, List.replicate_succ, Nat.add_right_comm, Nat.add_assoc]

/-- Settles O43: the range of `DELAY_UNITS`, times 3; an unanswered poll takes the whole bound. -/
theorem pollBoundRange : Obligations.PollBoundRange := by
  intro d
  obtain ⟨low, high⟩ := delayUnits_bounds d
  have factor : pollBound (delayUnits d) = 3 * delayUnits d := rfl
  refine ⟨low, high, factor, by omega, by omega, by omega, fun smp p highs => ?_⟩
  rw [pollRun_unanswered fun q _ => highs (p + q), factor]

/-! ### The clock cycles of the primitives -/

/-- Traces of equal length in clock cycles, one for each element of a list. -/
theorem traceCycles_flatMap {α : Type} {du c : Nat} {f : α → Trace} (h : ∀ x, traceCycles du (f x) = c) (l : List α) :
    traceCycles du (l.flatMap f) = l.length * c := by
  induction l with
  | nil => simp [traceCycles]
  | cons x rest ih => rw [List.flatMap_cons, traceCycles_append, h, ih, List.length_cons, Nat.succ_mul, Nat.add_comm]

theorem traceCycles_start (du : Nat) : traceCycles du startTrace = 4 + 4 * du := by
  simp [traceCycles, startTrace, Event.cycles]
  omega

theorem traceCycles_stop (du : Nat) : traceCycles du stopTrace = 4 + 4 * du := by
  simp [traceCycles, stopTrace, Event.cycles]
  omega

theorem traceCycles_sendSlot (du : Nat) (x : Level) : traceCycles du (sendSlot x) = 3 + 4 * du := by
  cases x <;> simp [traceCycles, sendSlot, dataEvent, Event.cycles] <;> omega

theorem traceCycles_ackSlot (du : Nat) : traceCycles du ackSlot = 3 + 2 * du := by
  simp [traceCycles, ackSlot, Event.cycles]
  omega

theorem traceCycles_receiveSlot (du : Nat) (x : Level) : traceCycles du (receiveSlot x) = 3 + 4 * du := by
  cases x <;> simp [traceCycles, receiveSlot, sampleEvent, Event.cycles] <;> omega

theorem traceCycles_nackSlot (du : Nat) : traceCycles du nackSlot = 3 + 4 * du := by
  simp [traceCycles, nackSlot, Event.cycles]
  omega

/-- A SendByte is its eight bit slots, the acknowledgment slot, the poll and the waits after it (rule R124). -/
theorem traceCycles_sendByte (du bound : Nat) (smp : Nat → Level) (p : Nat) (v : Byte) :
    traceCycles du (sendByte bound smp p v).trace =
      27 + 34 * du + traceCycles du (pollRun smp bound p).trace +
        if (pollRun smp bound p).acked then 2 * du else 0 := by
  have waits : ∀ acked : Bool, traceCycles du (if acked then [.wait, .wait] else []) = if acked then 2 * du else 0 := by
    intro acked
    cases acked <;> simp [traceCycles, Event.cycles, Nat.two_mul]
  simp only [sendByte, traceCycles_append, traceCycles_flatMap fun i => traceCycles_sendSlot du (bitOf v i), bitOrder,
    List.length_cons, List.length_nil, traceCycles_ackSlot, waits]
  omega

/-- A ReceiveByte is the release, its eight bit slots and the NotAcknowledged (rule R128). -/
theorem traceCycles_receive (du : Nat) (smp : Nat → Level) (p : Nat) :
    traceCycles du (receiveTrace smp p) = 28 + 36 * du := by
  have release : traceCycles du [.dataHigh] = 1 := rfl
  simp only [receiveTrace, traceCycles_append, release,
    traceCycles_flatMap fun i => traceCycles_receiveSlot du (receiveSample smp p i), bitOrder, List.length_cons,
    List.length_nil, traceCycles_nackSlot]
  omega

/-- A SendByte acknowledged at its first sample (rule R124). -/
theorem traceCycles_send_firstLow {smp : Nat → Level} {bound p : Nat} (hb : 0 < bound) (h : smp p = false) (du : Nat)
    (v : Byte) : traceCycles du (sendByte bound smp p v).trace = 28 + 36 * du := by
  have sample : traceCycles du [.sampleLow] = 1 := rfl
  simp only [traceCycles_sendByte, pollRun_firstLow hb h, sample, if_true]
  omega

/-- A SendByte that is not acknowledged (rule R124). -/
theorem traceCycles_send_unanswered {smp : Nat → Level} {bound p : Nat} (h : ∀ q, q < bound → smp (p + q) = true)
    (du : Nat) (v : Byte) : traceCycles du (sendByte bound smp p v).trace = 27 + 34 * du + bound := by
  have samples : traceCycles du (List.replicate bound .sampleHigh) = bound := by simp [traceCycles, Event.cycles]
  simp only [traceCycles_sendByte, pollRun_unanswered h, samples, Bool.false_eq_true, if_false, Nat.add_zero]

/-! ### The clock cycles of a command -/

/-- Every poll of these primitives, the first of them beginning at sample p, ends at its first sample: a SendByte takes one
sample, a ReceiveByte eight. -/
def AckedAtOnce (smp : Nat → Level) : List Prim → Nat → Prop
  | [], _ => True
  | .start :: rest, p => AckedAtOnce smp rest p
  | .send _ :: rest, p => smp p = false ∧ AckedAtOnce smp rest (p + 1)
  | .receive :: rest, p => AckedAtOnce smp rest (p + 8)

/-- The clock cycles of a primitive whose poll, if it has one, ends at its first sample (rules R110, R124, R128). -/
def Prim.cycles (du : Nat) : Prim → Nat
  | .start => 4 + 4 * du
  | .send _ => 28 + 36 * du
  | .receive => 28 + 36 * du

/-- Primitives whose polls end at once all run, each in its own cycles. -/
theorem bodyRun_cycles {smp : Nat → Level} {bound : Nat} (hb : 0 < bound) (du : Nat) {body : List Prim} {p : Nat}
    (h : AckedAtOnce smp body p) :
    traceCycles du (bodyRun bound smp body p).trace = (body.map (Prim.cycles du)).sum := by
  induction body generalizing p with
  | nil => rfl
  | cons prim rest ih =>
    rw [List.map_cons, List.sum_cons]
    cases prim with
    | start =>
      rw [bodyRun_start, CommandRun.after, traceCycles_append, traceCycles_start, ih h]
      rfl
    | receive =>
      rw [bodyRun_receive, CommandRun.after, traceCycles_append, traceCycles_receive, ih h]
      rfl
    | send v =>
      obtain ⟨low, hrest⟩ := h
      have poll := pollRun_firstLow hb low
      have acked : (sendByte bound smp p v).acked = true := congrArg SendRun.acked poll
      have next : (sendByte bound smp p v).nextSample = p + 1 := congrArg SendRun.nextSample poll
      rw [bodyRun_send_acked acked, CommandRun.after, traceCycles_append, traceCycles_send_firstLow hb low, next,
        ih hrest]
      rfl

/-- A command whose polls end at once: its primitives and the Stop (rules R140, R203). -/
theorem commandRun_cycles {smp : Nat → Level} {pay : Byte → Byte} {bound p : Nat} {i : Instr} (hb : 0 < bound) (du : Nat)
    (h : AckedAtOnce smp (commandBody pay i) p) :
    traceCycles du (commandRun bound smp pay p i).trace =
      ((commandBody pay i).map (Prim.cycles du)).sum + (4 + 4 * du) := by
  rw [commandRun, traceCycles_append, bodyRun_cycles hb du h, traceCycles_stop]

/-- A row of SendBytes is acknowledged at once when each of its first samples reads low. -/
theorem ackedAtOnce_sends {smp : Nat → Level} (f : Nat → Byte) {l : List Nat} {p : Nat}
    (h : ∀ q, q < l.length → smp (p + q) = false) : AckedAtOnce smp (l.map fun j => .send (f j)) p := by
  induction l generalizing p with
  | nil => trivial
  | cons j rest ih =>
    refine ⟨h 0 (Nat.succ_pos _), ih fun q hq => ?_⟩
    rw [Nat.add_right_comm]
    exact h (q + 1) (Nat.succ_lt_succ hq)

/-- Every command begins with a Start and an address byte (rules R141 to R145). -/
theorem commandBody_address (pay : Byte → Byte) (i : Instr) :
    ∃ v rest, commandBody pay i = .start :: .send v :: rest := by
  cases i <;> exact ⟨_, _, rfl⟩

/-- A command whose address byte is not acknowledged: Start, that byte, Stop (rules R140, R173, R203). -/
theorem commandRun_cycles_unanswered {smp : Nat → Level} {bound p : Nat} (h : ∀ q, q < bound → smp (p + q) = true)
    (du : Nat) (pay : Byte → Byte) (i : Instr) :
    traceCycles du (commandRun bound smp pay p i).trace = 35 + 42 * du + bound := by
  obtain ⟨v, rest, body⟩ := commandBody_address pay i
  have refused : (sendByte bound smp p v).acked = false := congrArg SendRun.acked (pollRun_unanswered h)
  rw [commandRun_of_body body, bodyRun_send_refused refused, traceCycles_append, traceCycles_append, traceCycles_start,
    traceCycles_send_unanswered h, traceCycles_stop]
  omega

/-- Settles O51: the primitives of each command, each in its own cycles, and the Stop. -/
theorem commandCycles : Obligations.CommandCycles := by
  intro smp pay du p a x y hdu
  have hb : 0 < pollBound du := pollBound_pos hdu
  refine ⟨fun h0 h1 => ?_, fun h => ?_, fun h0 h1 h2 => ?_, fun h0 => ?_, fun h0 h1 h2 => ?_, fun h i => ?_⟩
  · rw [commandRun_cycles (i := .writeByte a x y) hb du ⟨h0, h1, trivial⟩]
    simp [commandBody, writeByteBody, Prim.cycles]
    omega
  · have sends := ackedAtOnce_sends (smp := smp) (fun j => pay (BitVec.ofNat 8 j)) (l := List.range x.toNat)
      (p := p + 1) fun q hq => by
        rw [Nat.add_right_comm]
        exact h (q + 1) (by simpa using hq)
    rw [commandRun_cycles (p := p) (i := .writeMulti a x y) hb du ⟨h 0 (Nat.zero_le _), sends⟩]
    simp [commandBody, writeMultiBody, Prim.cycles, Function.comp_def]
    ring
  · rw [commandRun_cycles (i := .writeReg a x y) hb du ⟨h0, h1, h2, trivial⟩]
    simp [commandBody, writeRegBody, Prim.cycles]
    omega
  · rw [commandRun_cycles (i := .readByte a x y) hb du ⟨h0, trivial⟩]
    simp [commandBody, readByteBody, Prim.cycles]
    omega
  · rw [commandRun_cycles (i := .readReg a x y) hb du ⟨h0, h1, h2, trivial⟩]
    simp [commandBody, readRegBody, Prim.cycles]
    omega
  · have factor : pollBound du = 3 * du := rfl
    rw [commandRun_cycles_unanswered (factor ▸ h), factor]
    omega

end Sys2Proof.Machine
end

section
/-! PROOFS. The statements of 41_bus_signaling.md: the rows of Start and of Stop (rules R110, R111), and the end of the
Stop, which is the response (rule R150). -/

namespace Sys2Proof.Machine

/-- Both Starts at a known K run that row of the Start table. -/
theorem Block.row_start_at {b : Block} {k : BitVec 6} (r : Bool) (hp : b.phase = .start ∨ b.phase = .rstart)
    (hk : b.k = k) : b.row r = startRow k.toNat :=
  hk ▸ Block.row_start r hp

/-- Settles O20: both Starts use the Start table, whose rows before K = 7 are inner ones. -/
theorem startRows : Obligations.StartRows := by
  intro i s hp
  have hbusy : s.block.phase ≠ .idle := by rcases hp with hp | hp <;> simp [hp]
  have hr {k : BitVec 6} (hk : s.block.k = k) := Block.row_start_at ((planOf i).receives s.block) hp hk
  refine ⟨fun hk => ?_, fun hk => ?_, fun hk => ?_, fun hk => ?_, fun hk hl => ?_⟩
  · exact exec_inner_at hbusy (hr hk) hk rfl
  · exact exec_inner_at hbusy (hr hk) hk rfl
  · exact exec_inner_at hbusy (hr hk) hk rfl
  · exact exec_inner_at hbusy (hr hk) hk rfl
  · rcases hk with hk | hk | hk <;> exact exec_inner_wait hbusy (hr hk) hl

/-- `STOP` at a known K runs that row of the Stop table. -/
theorem Block.row_stop_at {b : Block} {k : BitVec 6} (r : Bool) (hp : b.phase = .stop) (hk : b.k = k) :
    b.row r = stopRow k.toNat :=
  hk ▸ Block.row_stop r hp

/-- Settles O21: `STOP` uses the Stop table, whose rows before K = 7 are inner ones. -/
theorem stopRows : Obligations.StopRows := by
  intro i s hp
  have hbusy : s.block.phase ≠ .idle := by simp [hp]
  have hr {k : BitVec 6} (hk : s.block.k = k) := Block.row_stop_at ((planOf i).receives s.block) hp hk
  refine ⟨fun hk => ?_, fun hk => ?_, fun hk => ?_, fun hk => ?_, fun hk hl => ?_⟩
  · exact exec_inner_at hbusy (hr hk) hk rfl
  · exact exec_inner_at hbusy (hr hk) hk rfl
  · exact exec_inner_at hbusy (hr hk) hk rfl
  · exact exec_inner_at hbusy (hr hk) hk rfl
  · rcases hk with hk | hk | hk <;> exact exec_inner_wait hbusy (hr hk) hl

/-- The cycle that completes a Stop (rules R111, R149, R150). -/
theorem exec_stop_final (i : Instr) {s : State} (hp : s.block.phase = .stop) (hk : s.block.k = 7)
    (hl : s.lastWaitCycle) :
    exec i s = .next { s with block := { s.block with hbCnt := 0, k := 0, phase := .idle, rspv := true } } := by
  have hbusy : s.block.phase ≠ .idle := by simp [hp]
  have after := after_stop i (b := s.block.withHbCnt 0) hp s.pay
  exact exec_final hbusy (Block.row_stop_at _ hp hk) hl after

/-- Settles O31: the Stop's last cycle is the response, and without reset the next cycle's ports show its registers. -/
theorem stopResponds : Obligations.StopResponds := by
  intro i s hp hk hl
  refine ⟨_, exec_stop_final i hp hk hl, rfl, fun hrst => ?_⟩
  obtain ⟨ports, -⟩ := portsShowRegisters
    { s with block := { s.block with hbCnt := 0, k := 0, phase := .idle, rspv := true } }
  obtain ⟨ready, -, valid, err, ill, data, -, -⟩ := ports hrst
  exact ⟨valid, err, ill, data, ready.mpr rfl⟩

end Sys2Proof.Machine
end

section
/-! PROOFS. The statements of 42_byte_transfer.md: the acknowledgment slot and its poll, micro-op by micro-op
(rules R121 to R123, R130) and as events (rules R122, R124). -/

namespace Sys2Proof.Machine

/-! ### The acknowledgment slot, clock cycle by clock cycle -/

/-- A SendByte at a known K runs that row of the SendByte table. -/
theorem row_sending_at {i : Instr} {b : Block} {k : BitVec 6} (hc : b.command = some i) (hs : b.sending)
    (hk : b.k = k) : b.row ((planOf i).receives b) = some (sendRow k.toNat) := by
  obtain ⟨-, hr⟩ := row_sending hc hs
  exact hk ▸ hr

/-- Settles O24: at K = 61 the row is the poll, and each clause is one of the three ways `Block.pollSample` ends. -/
theorem pollSample : Obligations.PollSample := by
  intro i s hc hs hk
  obtain ⟨hbusy, -⟩ := row_sending hc hs
  have hr : s.block.row ((planOf i).receives s.block) = some (.inner .poll) := row_sending_at hc hs hk
  have sample {l : Level} {b : Block} {f : Fate} (hlevel : s.env.dataLevel = l)
      (h : s.block.pollSample s.du l = (b, f)) : MicroOp.poll.run s.du s.env.dataLevel s.block = (b, f) := hlevel ▸ h
  refine ⟨fun low => ?_, fun high last => ?_, fun high more => ?_⟩
  · exact exec_inner_at hbusy hr hk (sample low Block.pollSample_low)
  · have aborts : (planOf i).after s.pay (s.block.withAckf false) = some (s.block.withAckf false).abort :=
      after_abort (b := s.block.withAckf false) hc hs rfl s.pay
    exact exec_giveUp hbusy hr (sample high (Block.pollSample_giveUp last)) aborts
  · exact exec_hold hbusy hr (sample high (Block.pollSample_high more))

/-- Settles O23: K = 56 to 60 and K = 62 are inner rows of the SendByte table. -/
theorem ackSlotRows : Obligations.AckSlotRows := by
  intro i s hc hs
  obtain ⟨hbusy, -⟩ := row_sending hc hs
  have hr {k : BitVec 6} (hk : s.block.k = k) := row_sending_at hc hs hk
  refine ⟨fun hk => ?_, fun hk => ?_, fun hk => ?_, fun hk hl => ?_⟩
  · exact exec_inner_at hbusy (hr hk) hk rfl
  · exact exec_inner_at hbusy (hr hk) hk rfl
  · exact exec_inner_at hbusy (hr hk) hk rfl
  · rcases hk with hk | hk | hk <;> exact exec_inner_wait hbusy (hr hk) hl

/-! ### The poll and the SendByte as events -/

/-- High samples within the bound are counted, and the poll goes on behind them with what is left of it (rule R122). -/
theorem pollRun_highs {smp : Nat → Level} {q p : Nat} (left : Nat) (h : ∀ r, r < q → smp (p + r) = true) :
    pollRun smp (left + q) p =
      { pollRun smp left (p + q) with
        trace := List.replicate q .sampleHigh ++ (pollRun smp left (p + q)).trace } := by
  induction q generalizing p with
  | zero => rfl
  | succ q ih =>
    have first : smp p = true := h 0 (Nat.succ_pos q)
    have rest := ih (p := p + 1) fun r hr => by
      rw [Nat.add_right_comm]
      exact h (r + 1) (Nat.succ_lt_succ hr)
    have place : p + 1 + q = p + (q + 1) := Nat.add_right_comm p 1 q
    rw [place] at rest
    simp [← Nat.add_assoc, pollRun, first, rest, List.replicate_succ]

/-- A poll takes one sample for each of its events (rules R10, R122). -/
theorem pollRun_nextSample (smp : Nat → Level) (bound p : Nat) :
    (pollRun smp bound p).nextSample = p + (pollRun smp bound p).trace.length := by
  induction bound generalizing p with
  | zero => rfl
  | succ left ih =>
    unfold pollRun
    split
    · rfl
    · simp only [ih (p + 1), List.length_cons]
      omega

/-- Settles O44: the high samples in front of the first low one, then that one; or high samples up to the bound. -/
theorem pollOutcome : Obligations.PollOutcome := by
  intro smp bound p
  refine ⟨fun q hq low highs => ?_, pollRun_unanswered, ?_⟩
  · obtain ⟨left, rfl⟩ := Nat.exists_eq_add_of_lt hq
    have total : q + left + 1 = left + 1 + q := by omega
    rw [total, pollRun_highs (left + 1) highs, pollRun_firstLow left.succ_pos low]
  · rcases pollRun_cases smp bound p with ⟨-, q, hq, trace⟩ | ⟨-, trace⟩
    · simpa [trace] using hq
    · simp [trace]

/-- The eight bit slots and the acknowledgment slot are 61 events; the poll's follow, and two waits when it was
acknowledged (rules R120, R121, R123). -/
theorem sendByte_trace_length (bound : Nat) (smp : Nat → Level) (p : Nat) (v : Byte) :
    (sendByte bound smp p v).trace.length =
      61 + (pollRun smp bound p).trace.length + if (pollRun smp bound p).acked then 2 else 0 := by
  have slots : ((bitOrder.flatMap fun i => sendSlot (bitOf v i)) ++ ackSlot).length = 61 := rfl
  simp only [sendByte, List.length_append (bs := ite _ _ _), List.length_append (bs := SendRun.trace _), slots,
    apply_ite List.length, List.length_cons, List.length_nil]

/-- Settles O45: an acknowledged poll has one event for each sample up to the low one, any other has `bound`. -/
theorem sendByteLength : Obligations.SendByteLength := by
  intro smp bound p v
  have acked : (sendByte bound smp p v).acked = (pollRun smp bound p).acked := rfl
  have next : (sendByte bound smp p v).nextSample = _ := pollRun_nextSample smp bound p
  rw [sendByte_trace_length, acked, next]
  rcases pollRun_cases smp bound p with ⟨answered, -⟩ | ⟨refused, trace⟩
  · rw [if_pos answered, if_pos answered]
    omega
  · simp [refused, trace]

end Sys2Proof.Machine
end

section
/-! PROOFS. The statements of 43_transactions.md about one clock cycle: what it is spent on, the acceptance of a command,
the transitions of four of the commands, and that the invariant leaves no clock cycle without a next state. -/

namespace Sys2Proof.Machine

/-! ### What a clock cycle runs -/

/-- Settles O11: the cycle is spent on the word presented. -/
theorem stepRunsPresented : Obligations.StepRunsPresented :=
  fun _ _ hrst hp hvalid hword => step_run (action_presented hrst hp hvalid hword)

/-- Settles O12: the cycle is spent on the command in the latch. -/
theorem stepRunsInFlight : Obligations.StepRunsInFlight :=
  fun _ _ hrst hp hc => step_run (action_inFlight hrst hp hc)

/-- What a table word gives is what its 32 bits decode to. -/
theorem decode_of_tableWord {nbits w : Nat} {i : Instr} (h : decodeTableWord nbits w = some i) :
    decode (BitVec.ofNat 32 (w % 2 ^ nbits)) = .command i := by
  unfold decodeTableWord at h
  split at h
  · rename_i j hj
    cases h
    exact hj
  · cases h

/-- Settles O13: `withFetchWord` presents the word in `IDLE`, without reset. -/
theorem fetchWordRuns : Obligations.FetchWordRuns :=
  fun _ _ _ hword => step_run (action_presented rfl rfl rfl (decode_of_tableWord hword))

/-- Settles O17: `Block.accept` is the writes of acceptance. -/
theorem acceptanceCompletes : Obligations.AcceptanceCompletes := fun i _ hp => exec_idle i hp

/-! ### The transitions of `WRITE_BYTE`, `WRITE_REG`, `READ_BYTE` and `READ_REG` -/

/-- The cycle that completes a SendByte or a ReceiveByte: K = 63 is the last row of both tables (rules R130, R131, R149). -/
theorem exec_byte_final {i : Instr} {s : State} {b : Block} (hp : s.block.phase = .addr ∨ s.block.phase = .data)
    (hk : s.block.k = 63) (hl : s.lastWaitCycle) (ha : (planOf i).after s.pay (s.block.withHbCnt 0) = some b) :
    exec i s = .next { s with block := b.withK 0 } := by
  have hbusy : s.block.phase ≠ .idle := by rcases hp with hp | hp <;> simp [hp]
  have hr : s.block.row ((planOf i).receives s.block) = some (.final .wait) := by
    rcases hp with hp | hp
    · simp only [Block.row, hp, hk]
      rfl
    · cases hrec : (planOf i).receives s.block <;> simp only [Block.row, hp, hk] <;> rfl
  exact exec_final hbusy hr hl ha

/-- Settles O26: each clause takes one branch of the transition of `WRITE_BYTE`. -/
theorem writeByteTransitions : Obligations.WriteByteTransitions := by
  intro a r d s hl
  have final {b : Block} (hp) (hk) := exec_byte_final (i := .writeByte a r d) (s := s) (b := b) hp hk hl
  refine ⟨fun hp hk => exec_firstStart_final (.writeByte a r d) hp hk hl, fun hp hk ha => ?_, fun hp hk ha => ?_⟩
  · refine final (b := (s.block.withHbCnt 0).enterSend s.block.dat) (.inl hp) hk ?_
    simp [planOf, writeBytePlan, writeByteAfter, hp, ha]
  · refine final (b := (s.block.withHbCnt 0).enterStop) (.inr hp) hk ?_
    simp [planOf, writeBytePlan, writeByteAfter, hp, ha]

/-- Settles O28: each clause takes one branch of the transition of `WRITE_REG`. -/
theorem writeRegTransitions : Obligations.WriteRegTransitions := by
  intro a r d s hl
  have final {b : Block} (hp) (hk) := exec_byte_final (i := .writeReg a r d) (s := s) (b := b) hp hk hl
  refine ⟨fun hp hk => exec_firstStart_final (.writeReg a r d) hp hk hl, fun hp hk ha => ?_, fun hp hk ha hi => ?_,
    fun hp hk ha hi => ?_⟩
  · refine final (b := (s.block.withHbCnt 0).enterSend s.block.rl) (.inl hp) hk ?_
    simp [planOf, writeRegPlan, writeRegAfter, hp, ha]
  · rw [final (b := (s.block.withHbCnt 0).enterSendAt 1 s.block.dat) (.inr hp) hk
      (by simp [planOf, writeRegPlan, writeRegAfter, hp, ha, hi])]
    simp only [Block.enterSendAt, Block.enterSend, Block.withHbCnt, Block.withK, hp]
  · refine final (b := (s.block.withHbCnt 0).enterStop) (.inr hp) hk ?_
    simp [planOf, writeRegPlan, writeRegAfter, hp, ha, hi]

/-- Settles O29: each clause takes one branch of the transition of `READ_BYTE`. -/
theorem readByteTransitions : Obligations.ReadByteTransitions := by
  intro a r d s hl
  have final {b : Block} (hp) (hk) := exec_byte_final (i := .readByte a r d) (s := s) (b := b) hp hk hl
  refine ⟨fun hp hk => exec_firstStart_final (.readByte a r d) hp hk hl, fun hp hk ha => ?_, fun hp hk => ?_⟩
  · refine final (b := (s.block.withHbCnt 0).enterReceive) (.inl hp) hk ?_
    simp [planOf, readBytePlan, readByteAfter, hp, ha]
  · refine final (b := (s.block.withHbCnt 0).enterStopReceived) (.inr hp) hk ?_
    simp [planOf, readBytePlan, readByteAfter, hp]

/-- Settles O30: each clause takes one branch of the transition of `READ_REG`, and `RS` tells the branches apart. -/
theorem readRegTransitions : Obligations.ReadRegTransitions := by
  intro a r d s hl
  have final {b : Block} (hp) (hk) := exec_byte_final (i := .readReg a r d) (s := s) (b := b) hp hk hl
  refine ⟨fun hp hk => exec_firstStart_final (.readReg a r d) hp hk hl, fun hp hk => ?_, fun hp hk ha hrs => ?_,
    fun hp hk ha hrs => ?_, fun hp hk hrs ha => ?_, fun hp hk hrs => ?_⟩
  · refine exec_start_final (i := .readReg a r d) (.inr hp) hk hl (b := (s.block.withHbCnt 0).enterSecondAddr) ?_
    simp [planOf, readRegPlan, readRegAfter, hp]
  · refine final (b := (s.block.withHbCnt 0).enterSend s.block.rl) (.inl hp) hk ?_
    simp [planOf, readRegPlan, readRegAfter, hp, ha, hrs]
  · refine final (b := (s.block.withHbCnt 0).enterReceive) (.inl hp) hk ?_
    simp [planOf, readRegPlan, readRegAfter, hp, ha, hrs]
  · refine final (b := (s.block.withHbCnt 0).enterRstart) (.inr hp) hk ?_
    simp [planOf, readRegPlan, readRegAfter, hp, ha, hrs]
  · refine final (b := (s.block.withHbCnt 0).enterStopReceived) (.inr hp) hk ?_
    simp [planOf, readRegPlan, readRegAfter, hp, hrs]

/-! ### No clock cycle without a next state -/

/-- A busy command has a transition where a primitive completes: the second Start is `READ_REG`'s, and `WRITE_REG` sends
bytes 0 and 1 only (rule R149). -/
theorem after_isSome {i : Instr} {b : Block} (hbusy : b.phase ≠ .idle) (hsecond : b.phase = .rstart → i.op = 5)
    (hreg : b.phase = .data → i.op = 3 → b.byteI = 0 ∨ b.byteI = 1) (pay : Byte → Byte) :
    ∃ c, (planOf i).after pay b = some c := by
  rw [← Option.isSome_iff_exists]
  cases i with
  | writeReg a r d =>
    show (writeRegAfter pay b).isSome
    cases hp : b.phase <;> simp [writeRegAfter, hp, Instr.op] at hbusy hsecond hreg ⊢
    cases b.ackf <;> rcases hreg with hi | hi <;> simp [hi]
  | _ =>
    cases hp : b.phase <;>
      simp [planOf, writeBytePlan, writeMultiPlan, readBytePlan, readRegPlan, writeByteAfter, writeMultiAfter,
        readByteAfter, readRegAfter, hp, Instr.op] at hbusy hsecond ⊢

/-- A row's cycle has a next state when the command has a transition from what the micro-op leaves. -/
theorem Plan.rowStep_isSome {p : Plan} {du : Nat} {l : Level} {pay : Byte → Byte} {row : MicroRow} {b : Block}
    (h : ∀ c f, row.op.run du l b = (c, f) → ∃ d, p.after pay c = some d) : ∃ c, p.rowStep du l pay row b = some c := by
  cases hrun : row.op.run du l b with
  | mk c f =>
    obtain ⟨d, hd⟩ := h c f hrun
    cases f with
    | hold => exact ⟨c, by simp [Plan.rowStep, hrun]⟩
    | done =>
      cases hl : row.last
      · exact ⟨c.withK (c.k + 1), by simp [Plan.rowStep, hrun, Plan.complete, hl]⟩
      · exact ⟨d.withK 0, by simp [Plan.rowStep, hrun, Plan.complete, hl, hd]⟩
    | giveUp => exact ⟨d.withK 0, by simp [Plan.rowStep, hrun, Plan.complete, hd]⟩

/-- While busy the invariant provides the row, and the transition where the row completes its primitive. -/
theorem exec_inv_next {i : Instr} {s : State} {du : Nat} (h : s.block.Inv du) (hp : s.block.phase ≠ .idle)
    (hc : s.block.command = some i) : ∃ t, exec i s = .next t := by
  obtain ⟨hop, -⟩ := Block.command_fields hc
  obtain ⟨row, hr⟩ := Block.row_some ((planOf i).receives s.block) hp h.shortPosition
  have transition (c : Block) (f : Fate) (run : row.op.run s.du s.env.dataLevel s.block = (c, f)) :
      ∃ d, (planOf i).after s.pay c = some d := by
    obtain ⟨phase, -, -, -, -, -, byteI, -⟩ := MicroOp.run_frame run
    refine after_isSome (phase ▸ hp) (fun hsecond => ?_) (fun hdata hreg => ?_) s.pay
    · exact hop ▸ (h.secondStart (phase ▸ hsecond)).1
    · exact byteI ▸ h.byteIndexReg (phase ▸ hdata) (hop.trans hreg)
  obtain ⟨b, hb⟩ := Plan.rowStep_isSome transition
  exact ⟨_, by rw [exec_row hp hr, hb]⟩

/-- Only a busy block with no command in its latch has nothing to spend the cycle on. -/
theorem latch_of_lost {s : State} (h : s.action = .lost) : s.block.phase ≠ .idle ∧ s.block.command = none := by
  unfold State.action at h
  split at h
  · cases h
  · split at h
    · repeat' split at h
      all_goals cases h
    · split at h
      · cases h
      · exact ⟨‹_›, ‹_›⟩

/-- Settles O40: reset, the idle cycle, the refusal and the acceptance always have a next state, and a busy block has one
under the invariant, which keeps a command in the latch. -/
theorem invNeverStops : Obligations.InvNeverStops := by
  intro s h
  cases haction : s.action with
  | reset => exact ⟨_, step_reset haction⟩
  | idle => exact ⟨_, step_idle haction⟩
  | refuse => exact ⟨_, step_refuse haction⟩
  | run i =>
    rw [step_run haction]
    by_cases hp : s.block.phase = .idle
    · exact ⟨_, exec_idle (s := s.beginCycle) i hp⟩
    · exact exec_inv_next (s := s.beginCycle) h.block hp (command_of_action (s := s) haction hp)
  | lost =>
    obtain ⟨hp, hc⟩ := latch_of_lost haction
    exact absurd hc (h.block.latched hp)

end Sys2Proof.Machine
end

section
/-! PROOFS. The statements of 43_transactions.md about whole commands as events: the tokens of a command in which every byte
is acknowledged, those of an aborted one, and the bound on the events of every command. -/

namespace Sys2Proof.Machine

/-! ### Tokens -/

/-- The token a Start, or a SendByte that is acknowledged, leaves. A ReceiveByte's holds the value received, so that it has
none here: the lemmas below use this where no ReceiveByte stands. -/
def Prim.ackedToken : Prim → Token
  | .start => .start
  | .send u => .sent u true
  | .receive => .stop

/-- What a command in Ok leaves of primitives of which none receives: their tokens, in front of what follows them
(rule R140). -/
theorem bodyRun_append_ok {bound : Nat} {smp : Nat → Level} {front rest : List Prim} (hf : .receive ∉ front) {p : Nat}
    (h : (bodyRun bound smp (front ++ rest) p).ok = true) :
    ∃ q, (bodyRun bound smp (front ++ rest) p).tokens = front.map Prim.ackedToken ++ (bodyRun bound smp rest q).tokens ∧
      (bodyRun bound smp (front ++ rest) p).rx = (bodyRun bound smp rest q).rx ∧
      (bodyRun bound smp (front ++ rest) p).nextSample = (bodyRun bound smp rest q).nextSample := by
  induction front generalizing p with
  | nil => exact ⟨p, rfl, rfl, rfl⟩
  | cons prim front ih =>
    rw [List.mem_cons, not_or] at hf
    obtain ⟨hprim, hfront⟩ := hf
    cases prim with
    | receive => exact absurd rfl hprim
    | start =>
      obtain ⟨q, tokens, rx, next⟩ := ih hfront (p := p) h
      exact ⟨q, congrArg (Token.start :: ·) tokens, rx, next⟩
    | send v =>
      cases acked : (sendByte bound smp p v).acked with
      | true =>
        rw [List.cons_append, bodyRun_send_acked acked] at h ⊢
        obtain ⟨q, tokens, rx, next⟩ := ih hfront h
        exact ⟨q, congrArg (Token.sent v true :: ·) tokens, rx, next⟩
      | false =>
        rw [List.cons_append, bodyRun_send_refused acked] at h
        cases h

/-- A write command in Ok: the tokens of its primitives, and the Stop (rules R141 to R143). -/
theorem commandRun_tokens_write {bound : Nat} {smp : Nat → Level} {pay : Byte → Byte} {p : Nat} {i : Instr}
    (hw : .receive ∉ commandBody pay i) (h : (commandRun bound smp pay p i).ok = true) :
    (commandRun bound smp pay p i).tokens = (commandBody pay i).map Prim.ackedToken ++ [.stop] := by
  have ok : (bodyRun bound smp (commandBody pay i ++ []) p).ok = true := (List.append_nil _).symm ▸ h
  obtain ⟨q, tokens, -, -⟩ := bodyRun_append_ok hw ok
  rw [List.append_nil] at tokens
  rw [commandRun, tokens]
  simp [bodyRun]

/-- A read command in Ok: the tokens of the primitives before its ReceiveByte, the value of the last eight samples, and the
Stop (rules R144, R145). -/
theorem commandRun_tokens_read {bound : Nat} {smp : Nat → Level} {pay : Byte → Byte} {p : Nat} {i : Instr}
    {front : List Prim} (hbody : commandBody pay i = front ++ [.receive]) (hf : .receive ∉ front)
    (h : (commandRun bound smp pay p i).ok = true) :
    ∃ v, v = receiveValue smp ((commandRun bound smp pay p i).nextSample - 8) ∧
      (commandRun bound smp pay p i).rx = some v ∧
      (commandRun bound smp pay p i).tokens = front.map Prim.ackedToken ++ [.received v, .stop] := by
  have ok : (bodyRun bound smp (front ++ [.receive]) p).ok = true := hbody ▸ h
  obtain ⟨q, tokens, rx, next⟩ := bodyRun_append_ok hf ok
  refine ⟨receiveValue smp q, ?_, ?_, ?_⟩
  · rw [commandRun, hbody, next, bodyRun_receive]
    rfl
  · rw [commandRun, hbody, rx, bodyRun_receive]
  · rw [commandRun, hbody, tokens, bodyRun_receive]
    simp [CommandRun.after, bodyRun]

/-- Settles O49: the three write commands have no ReceiveByte, the two read commands end with one. -/
theorem transactionsWhenOk : Obligations.TransactionsWhenOk := by
  intro smp pay bound p a x y
  refine ⟨fun h => ?_, fun h => ?_, fun h => ?_, fun h => ?_, fun h => ?_⟩
  · exact commandRun_tokens_write (i := .writeByte a x y) (by simp [commandBody, writeByteBody]) h
  · rw [commandRun_tokens_write (i := .writeMulti a x y) (by simp [commandBody, writeMultiBody]) h]
    simp [commandBody, writeMultiBody, Prim.ackedToken, Function.comp_def]
  · exact commandRun_tokens_write (i := .writeReg a x y) (by simp [commandBody, writeRegBody]) h
  · exact commandRun_tokens_read (i := .readByte a x y) (front := [.start, .send (addressByte a true)]) rfl (by simp) h
  · exact commandRun_tokens_read (i := .readReg a x y)
      (front := [.start, .send (addressByte a false), .send x, .start, .send (addressByte a true)]) rfl (by simp) h

/-! ### The abort -/

/-- A ReceiveByte stands at the end only. -/
def ReceivesLast : List Prim → Prop
  | [] => True
  | .start :: rest => ReceivesLast rest
  | .send _ :: rest => ReceivesLast rest
  | .receive :: rest => rest = []

theorem receivesLast_sends (f : Nat → Byte) (l : List Nat) : ReceivesLast (l.map fun j => .send (f j)) := by
  induction l with
  | nil => trivial
  | cons j rest ih => exact ih

/-- A command receives in its last primitive, if at all (rules R141 to R145). -/
theorem commandBody_receivesLast (pay : Byte → Byte) (i : Instr) : ReceivesLast (commandBody pay i) := by
  cases i with
  | writeMulti a n d => exact receivesLast_sends (fun j => pay (BitVec.ofNat 8 j)) (List.range n.toNat)
  | writeByte | writeReg => trivial
  | readByte | readReg => rfl

/-- A run in Error is cut short behind its first byte not acknowledged, before any ReceiveByte (rules R140, R173). -/
theorem bodyRun_error {bound : Nat} {smp : Nat → Level} {body : List Prim} (hb : ReceivesLast body) {p : Nat}
    (h : (bodyRun bound smp body p).ok = false) :
    (bodyRun bound smp body p).rx = none ∧
    ∃ ran rest v, body = ran ++ .send v :: rest ∧ .receive ∉ ran ∧
      (bodyRun bound smp body p).tokens = ran.map Prim.ackedToken ++ [.sent v false] := by
  induction body generalizing p with
  | nil => cases h
  | cons prim body ih =>
    cases prim with
    | receive =>
      cases hb
      cases h
    | start =>
      obtain ⟨rx, ran, rest, v, rfl, hran, tokens⟩ := ih hb (p := p) h
      exact ⟨rx, .start :: ran, rest, v, rfl, by simp [hran], congrArg (Token.start :: ·) tokens⟩
    | send u =>
      cases acked : (sendByte bound smp p u).acked with
      | true =>
        rw [bodyRun_send_acked acked] at h ⊢
        obtain ⟨rx, ran, rest, v, rfl, hran, tokens⟩ := ih hb h
        exact ⟨rx, .send u :: ran, rest, v, rfl, by simp [hran], congrArg (Token.sent u true :: ·) tokens⟩
      | false =>
        rw [bodyRun_send_refused acked]
        exact ⟨rfl, [], body, u, rfl, by simp, rfl⟩

/-- Settles O50: the Stop follows the tokens of the run in Error. -/
theorem abortAtFailingByte : Obligations.AbortAtFailingByte := by
  intro smp pay bound p i h
  obtain ⟨rx, ran, rest, v, body, hran, tokens⟩ := bodyRun_error (commandBody_receivesLast pay i) h
  refine ⟨rx, ran, rest, v, body, hran, ?_⟩
  rw [commandRun, tokens, List.append_assoc]
  rfl

/-! ### The bound on a command's events -/

/-- A SendByte has at most 63 + `POLL_BOUND` events (rules R124, R152). -/
theorem sendByte_length_le (bound : Nat) (smp : Nat → Level) (p : Nat) (v : Byte) :
    (sendByte bound smp p v).trace.length ≤ 63 + bound := by
  obtain ⟨-, -, poll⟩ := pollOutcome smp bound p
  rw [sendByte_trace_length]
  split <;> omega

/-- Each primitive has at most as many events as the longest SendByte. -/
theorem bodyRun_length_le {bound : Nat} (hb : 1 ≤ bound) (smp : Nat → Level) (body : List Prim) (p : Nat) :
    (bodyRun bound smp body p).trace.length ≤ body.length * (63 + bound) := by
  induction body generalizing p with
  | nil => exact Nat.zero_le _
  | cons prim rest ih =>
    rw [List.length_cons, Nat.succ_mul]
    cases prim with
    | start =>
      have start : startTrace.length = 8 := rfl
      have := ih p
      rw [bodyRun_start, CommandRun.after, List.length_append, start]
      omega
    | receive =>
      obtain ⟨-, receive⟩ := receivedValue smp p
      have := ih (p + 8)
      rw [bodyRun_receive, CommandRun.after, List.length_append, receive]
      omega
    | send v =>
      have send := sendByte_length_le bound smp p v
      cases acked : (sendByte bound smp p v).acked with
      | true =>
        have := ih (sendByte bound smp p v).nextSample
        rw [bodyRun_send_acked acked, CommandRun.after, List.length_append]
        omega
      | false =>
        rw [bodyRun_send_refused acked]
        exact le_add_of_le_right send

/-- At most 256 primitives follow the first Start: 255 payload bytes and the address byte (rules R81, R142). -/
theorem commandBody_length_le (pay : Byte → Byte) (i : Instr) : (commandBody pay i).length ≤ 257 := by
  cases i with
  | writeMulti a n d =>
    have hn := n.isLt
    simp [commandBody, writeMultiBody]
    omega
  | _ => simp [commandBody, writeByteBody, writeRegBody, readByteBody, readRegBody]

/-- Settles O52: a Start, a Stop, and at most 256 primitives between them. -/
theorem eventBound : Obligations.EventBound := by
  intro smp pay bound p i hb
  obtain ⟨rest, body, -⟩ := commandBody_shape pay i
  have count : rest.length ≤ 256 := by
    have := commandBody_length_le pay i
    rw [body, List.length_cons] at this
    omega
  have start : startTrace.length = 8 := rfl
  have stop : stopTrace.length = 8 := rfl
  have events : (bodyRun bound smp rest p).trace.length ≤ 256 * (63 + bound) :=
    (bodyRun_length_le (by omega) smp rest p).trans (Nat.mul_le_mul_right _ count)
  rw [commandRun_of_body body]
  simp only [List.length_append, start, stop]
  omega

end Sys2Proof.Machine
end

section
/-! PROOFS. Runs of the machine between two sets of registers while the host holds, and the rows inside a primitive as such
runs: each micro-op takes the clock cycles of its event (rules R101, R148, R203). -/

namespace Sys2Proof.Machine

/-! ### Runs between two sets of registers -/

/-- The state once n clock cycles have passed since s and p samples been taken, the host holding, with registers b. -/
def State.later (s : State) (n p : Nat) (b : Block) : State := { s with block := b, env := s.env.advance n p }

theorem State.later_holds {s : State} {m n : Nat} (h : HostHolds (m + n) s) (p : Nat) (b : Block) :
    HostHolds n (s.later m p b) :=
  h.later rfl

theorem State.later_dataLevel (s : State) (n p : Nat) (b : Block) : (s.later n p b).env.dataLevel = s.env.samples p :=
  (Env.dataLevel_samples _).trans (Env.samples_advance s.env n p 0)

/-- A state later, and then later again. -/
theorem State.later_advance (s : State) (n m p q : Nat) (b c : Block) :
    { s.later n p b with block := c, env := (s.later n p b).env.advance m q } = s.later (n + m) (p + q) c :=
  congrArg (fun env => ({ s with block := c, env := env } : State)) (Env.advance_advance s.env n m p q)

/-- A sample moves on to the next of the levels to come. -/
theorem Env.advance_takeSample (e : Env) (n p : Nat) : (e.advance n p).takeSample = e.advance n (p + 1) := by
  rw [← Env.advance_zero (e.advance n p), Env.takeSample_advance, Env.advance_advance]
  rfl

/-- A state later, and then one sample more. -/
theorem State.later_takeSample (s : State) (n p : Nat) (b c : Block) :
    { s.later n p b with block := c, env := (s.later n p b).env.takeSample } = s.later n (p + 1) c :=
  congrArg (fun env => ({ s with block := c, env := env } : State)) (Env.advance_takeSample s.env n p)

/-- While the host of s holds, the trace leads, in its own clock cycles, from registers b with p samples taken to registers c
with q samples taken (rules R101, R148). -/
def Leads (s : State) (p : Nat) (b : Block) (tr : Trace) (q : Nat) (c : Block) : Prop :=
  ∀ n, HostHolds (n + traceCycles s.du tr) s →
    Runs (traceCycles s.du tr) (s.later n p b) tr (s.later (n + traceCycles s.du tr) q c)

/-- Runs between registers follow each other. -/
theorem Leads.trans {s : State} {p q r : Nat} {b c d : Block} {tr tr' : Trace} (h : Leads s p b tr q c)
    (h' : Leads s q c tr' r d) : Leads s p b (tr ++ tr') r d := by
  intro n hold
  rw [traceCycles_append] at hold ⊢
  have first := h n (hold.mono (by omega))
  have second := h' (n + traceCycles s.du tr) (by rwa [Nat.add_assoc])
  rw [Nat.add_assoc] at second
  exact first.trans second

section
variable {i : Instr} {s : State} {p q : Nat} {b c : Block} {row : MicroRow} {op : MicroOp}

/-- One clock cycle with an event that takes one. -/
theorem leads_cycle {e : Event} (hp : b.phase ≠ .idle) (hc : b.command = some i) (hr : b.row b.receives = some row)
    (hexec : ∀ n, exec i (s.later n p b) = .next (s.later n q c))
    (hevent : row.op.event s.du (s.env.samples p) b = some e) (hone : e.cycles s.du = 1) : Leads s p b [e] q c := by
  have cycles : traceCycles s.du [e] = 1 := by simp [traceCycles, hone]
  intro n hold
  rw [cycles] at hold ⊢
  have holds : HostHolds (0 + 1) (s.later n p b) := State.later_holds hold p b
  obtain ⟨-, event⟩ := step_holds holds hp hc hr
  have begun : (s.later n p b).beginCycle = s.later (n + 1) p b :=
    (beginCycle_holds holds).trans (State.later_advance s n 1 p 0 b b)
  have step : step (s.later n p b) = .next (s.later (n + 1) q c) := by
    rw [step_run (action_inFlight holds.now.1 hp hc), begun, hexec]
  have run := Runs.step step (Runs.refl _)
  rw [event, State.later_dataLevel] at run
  exact (show (row.op.event s.du (s.env.samples p) b).toList ++ [] = [e] by rw [hevent]; rfl) ▸ run

/-- A whole wait, whether K moves on or the primitive is complete. -/
theorem leads_wait (hp : b.phase ≠ .idle) (hc : b.command = some i) (hr : b.row b.receives = some row)
    (ho : row.op = .wait) (hb : b.hbCnt = 0) (hcomplete : (planOf i).complete s.pay row.last b = some c) :
    Leads s p b [.wait] p c := by
  have cycles : traceCycles s.du [.wait] = s.du := by simp [traceCycles, Event.cycles]
  intro n hold
  rw [cycles] at hold ⊢
  have run := runs_wait (s := s.later n p b) hp hc hr ho hb (State.later_holds hold p b) hcomplete
  exact State.later_advance s n s.du p 0 b c ▸ run

/-- The wait that ends a primitive, with the command's transition. -/
theorem leads_final (hp : b.phase ≠ .idle) (hc : b.command = some i) (hr : b.row b.receives = some (.final .wait))
    (hb : b.hbCnt = 0) (ha : (planOf i).after s.pay b = some c) : Leads s p b [.wait] p (c.withK 0) :=
  leads_wait hp hc hr rfl hb (by simp [Plan.complete, MicroRow.final, ha])

end

/-! ### Rows inside a primitive -/

/-- The registers a micro-op other than the poll leaves when it is complete; a wait leaves them as they are. -/
def MicroOp.effect (l : Level) (b : Block) : MicroOp → Block
  | .wait => b
  | op => (op.run 0 l b).1

/-- The event of a micro-op that is complete. -/
def MicroOp.emitted (l : Level) (b : Block) : MicroOp → Event
  | .wait => .wait
  | op => (op.event 0 l b).getD .wait

/-- The number of the next sample after a micro-op. -/
def MicroOp.nextSample (p : Nat) (op : MicroOp) : Nat := if op.samples then p + 1 else p

theorem clockEvent_cycles (du : Nat) (l : Level) : (clockEvent l).cycles du = 1 := by cases l <;> rfl

theorem dataEvent_cycles (du : Nat) (l : Level) : (dataEvent l).cycles du = 1 := by cases l <;> rfl

theorem sampleEvent_cycles (du : Nat) (l : Level) : (sampleEvent l).cycles du = 1 := by cases l <;> rfl

/-- Every micro-op but a wait and the poll is complete in its one clock cycle, whatever `DELAY_UNITS` is (rule R148). -/
theorem MicroOp.run_oneCycle {op : MicroOp} (hwait : op ≠ .wait) (hpoll : op ≠ .poll) (du : Nat) (l : Level) (b : Block) :
    op.run du l b = (op.effect l b, .done) ∧ op.event du l b = some (op.emitted l b) ∧
      (op.emitted l b).cycles du = 1 := by
  cases op with
  | wait => exact absurd rfl hwait
  | poll => exact absurd rfl hpoll
  | setClock x => exact ⟨rfl, rfl, clockEvent_cycles du x⟩
  | setData x => exact ⟨rfl, rfl, dataEvent_cycles du x⟩
  | setDataBit i => exact ⟨rfl, rfl, dataEvent_cycles du _⟩
  | sampleBit i => exact ⟨rfl, rfl, sampleEvent_cycles du l⟩
  | release | setClockPoll => exact ⟨rfl, rfl, rfl⟩

/-- A completed micro-op leaves position, latch, `RS` and `HB_CNT` alone. -/
theorem MicroOp.effect_frame {op : MicroOp} (hpoll : op ≠ .poll) (l : Level) (b : Block) :
    (op.effect l b).phase = b.phase ∧ (op.effect l b).k = b.k ∧ (op.effect l b).command = b.command ∧
      (op.effect l b).receives = b.receives ∧ (op.effect l b).hbCnt = b.hbCnt := by
  cases op with
  | poll => exact absurd rfl hpoll
  | _ => exact ⟨rfl, rfl, rfl, rfl, rfl⟩

/-- A row inside a primitive runs its micro-op to the end, and K moves on. -/
theorem leads_inner {i : Instr} {s : State} {p : Nat} {b : Block} {op : MicroOp} (hp : b.phase ≠ .idle)
    (hc : b.command = some i) (hr : b.row b.receives = some (.inner op)) (hpoll : op ≠ .poll) (hb : b.hbCnt = 0) :
    Leads s p b [op.emitted (s.env.samples p) b] (op.nextSample p)
      ((op.effect (s.env.samples p) b).withK (b.k + 1)) := by
  by_cases hwait : op = .wait
  · subst hwait
    exact leads_wait hp hc hr rfl hb rfl
  · obtain ⟨run, event, one⟩ := MicroOp.run_oneCycle hwait hpoll s.du (s.env.samples p) b
    obtain ⟨-, same, -⟩ := MicroOp.effect_frame hpoll (s.env.samples p) b
    refine leads_cycle hp hc hr (fun n => ?_) event one
    have now : op.run s.du (s.later n p b).env.dataLevel b = (op.effect (s.env.samples p) b, .done) :=
      (State.later_dataLevel s n p b).symm ▸ run
    rw [exec_inner (s := s.later n p b) hp ((planOf_receives hc).symm ▸ hr) now, same]
    simp only [MicroRow.useEnv, MicroRow.inner, MicroOp.nextSample, State.later, Env.advance_takeSample]
    split <;> rfl

/-- The micro-op of a row of a table. -/
def rowOp (tab : Nat → Option MicroRow) (k : Nat) : MicroOp := ((tab k).getD (.final .wait)).op

/-- What so many rows of a table come to, from row k on: their events, the number of the next sample, the registers. -/
def rowsRun (tab : Nat → Option MicroRow) (smp : Nat → Level) : Nat → Nat → Nat → Block → Trace × Nat × Block
  | 0, _, p, b => ([], p, b)
  | count + 1, k, p, b =>
    let rest := rowsRun tab smp count (k + 1) ((rowOp tab k).nextSample p)
      (((rowOp tab k).effect (smp p) b).withK (BitVec.ofNat 6 (k + 1)))
    ((rowOp tab k).emitted (smp p) b :: rest.1, rest.2)

/-- The row of the table is inside a primitive, and is not the poll. -/
def InnerRow (tab : Nat → Option MicroRow) (k : Nat) : Prop := tab k = some (.inner (rowOp tab k)) ∧ rowOp tab k ≠ .poll

/-- The row depends on the position and on whether `DATA` receives. -/
theorem Block.row_congr {b c : Block} (hp : c.phase = b.phase) (hk : c.k = b.k) (hr : c.receives = b.receives) :
    c.row c.receives = b.row b.receives := by
  simp [Block.row, hp, hk, hr]

/-- Rows inside a primitive run one after another. -/
theorem leads_rows {i : Instr} {s : State} {tab : Nat → Option MicroRow} {count k p : Nat} {b : Block}
    (hp : b.phase ≠ .idle) (hc : b.command = some i) (htab : ∀ k, (b.withK k).row b.receives = tab k.toNat)
    (hrows : ∀ m, m < k + count → InnerRow tab m) (hk : b.k = BitVec.ofNat 6 k) (hcount : k + count ≤ 64)
    (hb : b.hbCnt = 0) :
    Leads s p b (rowsRun tab s.env.samples count k p b).1 (rowsRun tab s.env.samples count k p b).2.1
      (rowsRun tab s.env.samples count k p b).2.2 := by
  induction count generalizing k p b with
  | zero => exact fun n _ => Runs.refl _
  | succ count ih =>
    obtain ⟨row, hpoll⟩ := hrows k (by omega)
    obtain ⟨phase, -, command, receives, hbCnt⟩ := MicroOp.effect_frame hpoll (s.env.samples p) b
    have hr : b.row b.receives = some (.inner (rowOp tab k)) := by
      have here := htab b.k
      rwa [hk, BitVec.toNat_ofNat, Nat.mod_eq_of_lt (by omega), row, ← hk] at here
    have next : b.k + 1 = BitVec.ofNat 6 (k + 1) := hk ▸ (BitVec.ofNat_add k 1).symm
    have first : Leads s p b _ _ _ := leads_inner hp hc hr hpoll hb
    rw [next] at first
    refine first.trans (ih (phase ▸ hp) (command ▸ hc) (fun m => ?_) (fun m hm => hrows m (by omega)) rfl (by omega)
      (hbCnt ▸ hb))
    exact (Block.row_congr (b := b.withK m) (c := ((rowOp tab k).effect (s.env.samples p) b).withK m) phase rfl
      receives).trans (htab m)

end Sys2Proof.Machine
end

section
/-! PROOFS. The primitives as runs: Start, SendByte, ReceiveByte and Stop emit the traces of rules R110, R111, R124 and R128,
each in the clock cycles of its trace. -/

namespace Sys2Proof.Machine

section
variable {i : Instr} {s : State} {b c : Block}

/-! ### Start and Stop -/

/-- A Start, the first or the second, and the command's transition (rules R110, R149). -/
theorem leads_start (hp : b.phase = .start ∨ b.phase = .rstart) (hc : b.command = some i) (hk : b.k = 0)
    (hb : b.hbCnt = 0) (ha : (planOf i).after s.pay { b with scl := true, sda := false, k := 7 } = some c) (p : Nat) :
    Leads s p b startTrace p (c.withK 0) := by
  have hbusy : b.phase ≠ .idle := by rcases hp with hp | hp <;> simp [hp]
  have rows : Leads s p b _ p { b with scl := true, sda := false, k := 7 } :=
    leads_rows (tab := startRow) (count := 7) (k := 0) hbusy hc (fun _ => Block.row_start _ hp)
      (by unfold InnerRow; decide) hk (by decide) hb
  have last : Block.row b.receives { b with scl := true, sda := false, k := 7 } = some (.final .wait) :=
    Block.row_start _ hp
  exact rows.trans (leads_final hbusy hc last hb ha)

/-- A Stop, and the response (rules R111, R149, R150). -/
theorem leads_stop (hp : b.phase = .stop) (hc : b.command = some i) (hk : b.k = 0) (hb : b.hbCnt = 0) (p : Nat) :
    Leads s p b stopTrace p { b with scl := true, sda := true, k := 0, rspv := true, phase := .idle } := by
  have hbusy : b.phase ≠ .idle := by simp [hp]
  have rows : Leads s p b _ p { b with scl := true, sda := true, k := 7 } :=
    leads_rows (tab := stopRow) (count := 7) (k := 0) hbusy hc (fun _ => Block.row_stop _ hp)
      (by unfold InnerRow; decide) hk (by decide) hb
  have last : Block.row b.receives { b with scl := true, sda := true, k := 7 } = some (.final .wait) :=
    Block.row_stop _ hp
  have after := after_stop i (b := { b with scl := true, sda := true, k := 7 }) hp s.pay
  exact rows.trans (leads_final (b := { b with scl := true, sda := true, k := 7 }) hbusy hc last hb after)

/-! ### SendByte -/

/-- A sending phase at a row of its table. -/
theorem row_sending_withK (hc : b.command = some i) (hs : b.sending) (k : BitVec 6) :
    (b.withK k).row b.receives = some (sendRow k.toNat) := by
  obtain ⟨-, hr⟩ := row_sending (b := b.withK k) hc hs
  exact planOf_receives (b := b.withK k) hc ▸ hr

/-- A SendByte up to its poll (rules R120, R121, R130). -/
theorem leads_bits (hc : b.command = some i) (hs : b.sending) (hk : b.k = 0) (hb : b.hbCnt = 0) (p : Nat) :
    Leads s p b ((bitOrder.flatMap fun j => sendSlot (bitOf b.shreg j)) ++ ackSlot) p
      { b with scl := true, sda := true, pollCnt := 0, k := 61 } := by
  obtain ⟨hbusy, -⟩ := row_sending hc hs
  exact leads_rows (tab := fun k => some (sendRow k)) (count := 61) (k := 0) hbusy hc (row_sending_withK hc hs)
    (by unfold InnerRow; decide) hk (by decide) hb

/-- The registers behind an acknowledgment poll: the two waits follow, or the Stop of the abort (rules R123, R173). -/
def Block.polled (x : BitVec 18) (b : Block) : Bool → Block
  | true => { b with pollCnt := x, ackf := true, k := 62 }
  | false => { b with pollCnt := x, ackf := false, err := true, phase := .stop, k := 0 }

/-- One sample of the poll, from what `exec` does with it. -/
theorem leads_pollCycle {p : Nat} {l : Level} (hc : b.command = some i) (hs : b.sending) (hk : b.k = 61)
    (hl : s.env.samples p = l)
    (hexec : ∀ n, exec i (s.later n p b) =
      .next { s.later n p b with block := c, env := (s.later n p b).env.takeSample }) :
    Leads s p b [sampleEvent l] (p + 1) c := by
  obtain ⟨hbusy, hr⟩ := row_sending hc hs
  rw [planOf_receives hc, hk] at hr
  exact leads_cycle hbusy hc hr (fun n => (hexec n).trans (congrArg _ (State.later_takeSample s n p b c)))
    (congrArg (fun l => some (sampleEvent l)) hl) (sampleEvent_cycles s.du l)

/-- The poll with so many samples left (rules R122, R130). -/
theorem leads_poll (hc : b.command = some i) (hs : b.sending) (hk : b.k = 61) {left p : Nat} (hleft : 0 < left)
    (hcount : b.pollCnt.toNat + left = pollBound s.du) :
    ∃ x, Leads s p b (pollRun s.env.samples left p).trace (pollRun s.env.samples left p).nextSample
      (b.polled x (pollRun s.env.samples left p).acked) := by
  induction left generalizing p b with
  | zero => exact absurd rfl hleft.ne
  | succ left ih =>
    have sample (n : Nat) := pollSample i (s.later n p b) hc hs hk
    have level (n : Nat) := State.later_dataLevel s n p b
    cases hl : s.env.samples p with
    | false =>
      rw [pollRun_firstLow left.succ_pos hl]
      refine ⟨b.pollCnt, leads_pollCycle hc hs hk hl fun n => ?_⟩
      obtain ⟨low, -⟩ := sample n
      exact low ((level n).trans hl)
    | true =>
      rw [pollRun, if_neg (by simp [hl])]
      rcases Nat.eq_zero_or_pos left with rfl | hmore
      · refine ⟨b.pollCnt, leads_pollCycle hc hs hk hl fun n => ?_⟩
        obtain ⟨-, last, -⟩ := sample n
        exact last ((level n).trans hl) hcount
      · have counts : b.pollCnt.toNat + 1 ≠ pollBound s.du := by omega
        have first : Leads s p b [.sampleHigh] (p + 1) (b.withPollCnt (b.pollCnt + 1)) := by
          refine leads_pollCycle hc hs hk hl fun n => ?_
          obtain ⟨-, -, counted⟩ := sample n
          exact counted ((level n).trans hl) counts
        have room : pollBound s.du < 2 ^ 18 := by
          obtain ⟨-, -, -, -, -, room, -⟩ := pollBoundRange s.delay
          exact room
        have count : (b.pollCnt + 1).toNat = b.pollCnt.toNat + 1 := by bv_omega
        obtain ⟨x, rest⟩ := ih (b := b.withPollCnt (b.pollCnt + 1)) (p := p + 1) hc hs hk hmore (by
          rw [Block.withPollCnt_pollCnt, count]
          omega)
        exact ⟨x, first.trans rest⟩

/-- A SendByte up to the end of its poll. -/
theorem leads_bits_poll (hc : b.command = some i) (hs : b.sending) (hk : b.k = 0) (hb : b.hbCnt = 0) (p : Nat) :
    ∃ x, Leads s p b
      ((bitOrder.flatMap fun j => sendSlot (bitOf b.shreg j)) ++ ackSlot ++
        (pollRun s.env.samples (pollBound s.du) p).trace)
      (pollRun s.env.samples (pollBound s.du) p).nextSample
      (Block.polled x { b with scl := true, sda := true } (pollRun s.env.samples (pollBound s.du) p).acked) := by
  have hbound : 0 < pollBound s.du := pollBound_pos (Nat.succ_pos _)
  obtain ⟨x, poll⟩ := leads_poll (s := s) (b := { b with scl := true, sda := true, pollCnt := 0, k := 61 }) (p := p) hc hs
    rfl hbound (Nat.zero_add _)
  refine ⟨x, (leads_bits hc hs hk hb p).trans ?_⟩
  cases acked : (pollRun s.env.samples (pollBound s.du) p).acked <;> rw [acked] at poll <;> exact poll

/-- The two waits after an acknowledged poll, and the command's transition (rules R123, R149). -/
theorem leads_ackWaits (hc : b.command = some i) (hs : b.sending) (hk : b.k = 62) (hb : b.hbCnt = 0)
    (ha : (planOf i).after s.pay (b.withK 63) = some c) (p : Nat) : Leads s p b [.wait, .wait] p (c.withK 0) := by
  obtain ⟨hbusy, hr⟩ := row_sending hc hs
  rw [planOf_receives hc, hk] at hr
  have first : Leads s p b [.wait] p (b.withK (b.k + 1)) := leads_inner hbusy hc hr (by decide) hb
  rw [hk] at first
  have second : Leads s p (b.withK 63) [.wait] p (c.withK 0) :=
    leads_final (b := b.withK 63) hbusy hc (row_sending_withK hc hs 63) hb ha
  exact first.trans second

/-- A SendByte that is acknowledged, and the command's transition (rules R124, R149). -/
theorem leads_send_acked (hc : b.command = some i) (hs : b.sending) (hk : b.k = 0) (hb : b.hbCnt = 0) {p : Nat}
    (acked : (sendByte (pollBound s.du) s.env.samples p b.shreg).acked = true) :
    ∃ x, ∀ c, (planOf i).after s.pay { b with scl := true, sda := true, pollCnt := x, ackf := true, k := 63 } = some c →
      Leads s p b (sendByte (pollBound s.du) s.env.samples p b.shreg).trace
        (sendByte (pollBound s.du) s.env.samples p b.shreg).nextSample (c.withK 0) := by
  have answered : (pollRun s.env.samples (pollBound s.du) p).acked = true := acked
  obtain ⟨x, polled⟩ := leads_bits_poll (s := s) hc hs hk hb p
  rw [answered] at polled
  have trace : (sendByte (pollBound s.du) s.env.samples p b.shreg).trace =
      _ ++ (pollRun s.env.samples (pollBound s.du) p).trace ++ [.wait, .wait] :=
    congrArg (_ ++ ·) (if_pos answered)
  refine ⟨x, fun c ha => ?_⟩
  rw [trace]
  exact polled.trans (leads_ackWaits (b := Block.polled x { b with scl := true, sda := true } true) hc hs rfl hb ha _)

/-- A SendByte that is not acknowledged, and the abort (rules R124, R140, R173). -/
theorem leads_send_refused (hc : b.command = some i) (hs : b.sending) (hk : b.k = 0) (hb : b.hbCnt = 0) {p : Nat}
    (refused : (sendByte (pollBound s.du) s.env.samples p b.shreg).acked = false) :
    ∃ x, Leads s p b (sendByte (pollBound s.du) s.env.samples p b.shreg).trace
      (sendByte (pollBound s.du) s.env.samples p b.shreg).nextSample
      { b with scl := true, sda := true, pollCnt := x, ackf := false, err := true, phase := .stop, k := 0 } := by
  have unanswered : (pollRun s.env.samples (pollBound s.du) p).acked = false := refused
  obtain ⟨x, polled⟩ := leads_bits_poll (s := s) hc hs hk hb p
  rw [unanswered] at polled
  have trace : (sendByte (pollBound s.du) s.env.samples p b.shreg).trace =
      _ ++ (pollRun s.env.samples (pollBound s.du) p).trace ++ [] :=
    congrArg (_ ++ ·) (if_neg (by simp [unanswered]))
  rw [trace, List.append_nil]
  exact ⟨x, polled⟩

/-! ### ReceiveByte -/

/-- The end of a ReceiveByte is the same transition in both read commands (rule R149). -/
theorem after_received (hc : b.command = some i) (hp : b.phase = .data) (hrec : b.receives = true) (pay : Byte → Byte) :
    (planOf i).after pay b = some b.enterStopReceived := by
  have receives := (planOf_receives hc).trans hrec
  cases i with
  | writeByte | writeMulti | writeReg => cases receives
  | readByte => simp [planOf, readBytePlan, readByteAfter, hp]
  | readReg => simp [planOf, readRegPlan, readRegAfter, hp, show b.rs = true from receives]

/-- The rows of a ReceiveByte before its last wait: their events, eight samples, the value received (rules R126, R131). -/
theorem rowsRun_receive (smp : Nat → Level) (p : Nat) (b : Block) :
    (rowsRun (fun k => some (receiveRow k)) smp 63 0 p b).1 ++ [.wait] = receiveTrace smp p ∧
    (rowsRun (fun k => some (receiveRow k)) smp 63 0 p b).2 =
      (p + 8, { b with scl := true, sda := true, shreg := receiveValue smp p, k := 63 }) := ⟨rfl, rfl⟩

/-- A ReceiveByte, and the Stop entered with the value received (rules R128, R131, R149). -/
theorem leads_receive (hp : b.phase = .data) (hrec : b.receives = true) (hc : b.command = some i) (hk : b.k = 0)
    (hb : b.hbCnt = 0) (p : Nat) :
    Leads s p b (receiveTrace s.env.samples p) (p + 8) { b with
      scl := true, sda := true, shreg := receiveValue s.env.samples p, rxdata := receiveValue s.env.samples p,
      phase := .stop, k := 0 } := by
  have hbusy : b.phase ≠ .idle := by simp [hp]
  have table (k : BitVec 6) : (b.withK k).row b.receives = some (receiveRow k.toNat) := by simp [hrec, Block.row, hp]
  obtain ⟨trace, rest⟩ := rowsRun_receive s.env.samples p b
  have rows := leads_rows (s := s) (tab := fun k => some (receiveRow k)) (count := 63) (k := 0) (p := p) hbusy hc table
    (by unfold InnerRow; decide) hk (by decide) hb
  rw [rest] at rows
  have after := after_received (b := { b with
    scl := true, sda := true, shreg := receiveValue s.env.samples p, k := 63 }) hc hp hrec s.pay
  have last := leads_final (s := s) (p := p + 8) (b := { b with
    scl := true, sda := true, shreg := receiveValue s.env.samples p, k := 63 }) hbusy hc (table 63) hb after
  exact trace ▸ rows.trans last

end

end Sys2Proof.Machine
end

section
/-! PROOFS. The statement of 43_transactions.md about whole commands, clock cycle by clock cycle: at the beginning of each
primitive the registers hold what is still to run of the pseudocode, and the primitives run one after another. -/

namespace Sys2Proof.Machine

/-! ### The primitives a command has ahead -/

/-- The registers wherever a primitive has left the lines, `POLL_CNT` and K. -/
def Block.leftAt (scl sda : Level) (pollCnt : BitVec 18) (k : BitVec 6) (b : Block) : Block :=
  { b with scl := scl, sda := sda, pollCnt := pollCnt, k := k }

/-- From registers b, in which a primitive has completed, the command's transition leads to registers of which `next` holds,
and leaves the results alone. -/
def GoesOn (i : Instr) (pay : Byte → Byte) (next : Block → Prop) (b : Block) : Prop :=
  ∀ (scl sda : Level) (pollCnt : BitVec 18) (k : BitVec 6), ∃ c,
    (planOf i).after pay (b.leftAt scl sda pollCnt k) = some c ∧ c.err = b.err ∧ c.rxdata = b.rxdata ∧ next (c.withK 0)

/-- At the beginning of a primitive these are the command's primitives still to run before the Stop, each in its phase, with
the byte it sends in `SHREG` (rules R146, R149). -/
def Ahead (i : Instr) (pay : Byte → Byte) : List Prim → Block → Prop
  | [], b => b.phase = .stop
  | .start :: rest, b => (b.phase = .start ∨ b.phase = .rstart) ∧ GoesOn i pay (Ahead i pay rest) b
  | .send v :: rest, b => b.sending ∧ b.shreg = v ∧ GoesOn i pay (Ahead i pay rest) (b.withAckf true)
  | .receive :: rest, b => b.phase = .data ∧ b.receives = true ∧ rest = []

/-- After an acknowledged payload byte `WRITE_MULTI` goes on to the next one, or to the Stop (rules R142, R149). -/
theorem goesOn_payload {a : Addr} {n d : Byte} {pay : Byte → Byte} {next : Block → Prop} {b : Block} (hp : b.phase = .data)
    (hnext : ∀ scl sda pollCnt k, next (Block.withK 0 (if b.byteI.toNat + 1 < b.rl.toNat
      then ((b.withAckf true).leftAt scl sda pollCnt k).enterSendAt (b.byteI + 1) (pay (b.byteI + 1))
      else ((b.withAckf true).leftAt scl sda pollCnt k).enterStop))) :
    GoesOn (.writeMulti a n d) pay next (b.withAckf true) := by
  intro scl sda pollCnt k
  refine ⟨_, writeMultiAfter_data (b := (b.withAckf true).leftAt scl sda pollCnt k) hp rfl pay, ?_, ?_,
    hnext scl sda pollCnt k⟩ <;> split <;> rfl

/-- `WRITE_MULTI` sending one payload byte has it and those after it ahead, in ascending order (rules R56, R142). -/
theorem ahead_payload {a : Addr} {n d : Byte} {pay : Byte → Byte} {more : Nat} {b : Block} (hp : b.phase = .data)
    (ho : b.op = 2) (hcount : b.byteI.toNat + (more + 1) = b.rl.toNat) (hbyte : b.shreg = pay b.byteI) :
    Ahead (.writeMulti a n d) pay
      ((List.range' b.byteI.toNat (more + 1)).map fun j => .send (pay (BitVec.ofNat 8 j))) b := by
  induction more generalizing b with
  | zero =>
    refine ⟨.inr ⟨hp, by simp [Block.receives, ho]⟩, by simp [hbyte], goesOn_payload hp fun scl sda pollCnt k => ?_⟩
    rw [if_neg (by omega)]
    rfl
  | succ more ih =>
    have hrl := b.rl.isLt
    have next : (b.byteI + 1).toNat = b.byteI.toNat + 1 := by bv_omega
    refine ⟨.inr ⟨hp, by simp [Block.receives, ho]⟩, by simp [hbyte], goesOn_payload hp fun scl sda pollCnt k => ?_⟩
    rw [if_pos (by omega), ← next]
    refine ih (b := Block.withK 0 (((b.withAckf true).leftAt scl sda pollCnt k).enterSendAt (b.byteI + 1)
      (pay (b.byteI + 1)))) rfl ho ?_ rfl
    show (b.byteI + 1).toNat + (more + 1) = b.rl.toNat
    omega

/-- An accepted command has its body ahead (rules R141 to R145, R149). One line of a case is one transition: the phase and the
byte to send are those of the primitive that ends, the transition evaluates to the registers in which the next one begins, and
the results are as before. -/
theorem accept_ahead (i : Instr) (pay : Byte → Byte) (b : Block) : Ahead i pay (commandBody pay i) (b.accept i) := by
  cases i with
  | writeByte a r d =>
    refine ⟨.inl rfl, fun _ _ _ _ => ⟨_, rfl, rfl, rfl, ?_⟩⟩
    refine ⟨.inl rfl, rfl, fun _ _ _ _ => ⟨_, rfl, rfl, rfl, ?_⟩⟩
    exact ⟨.inr ⟨rfl, rfl⟩, rfl, fun _ _ _ _ => ⟨_, rfl, rfl, rfl, rfl⟩⟩
  | writeMulti a n d =>
    refine ⟨.inl rfl, fun _ _ _ _ => ⟨_, rfl, rfl, rfl, ?_⟩⟩
    refine ⟨.inl rfl, rfl, fun scl sda pollCnt k => ?_⟩
    by_cases hn : n = 0
    · subst hn
      exact ⟨_, rfl, rfl, rfl, rfl⟩
    · obtain ⟨more, hmore⟩ := Nat.exists_eq_succ_of_ne_zero (fun h => hn (BitVec.eq_of_toNat_eq h) : n.toNat ≠ 0)
      refine ⟨_, congrArg some (if_neg hn), rfl, rfl, ?_⟩
      rw [hmore, List.range_eq_range']
      exact ahead_payload (b := Block.withK 0 (((((b.accept (.writeMulti a n d)).enterAddr false).withAckf true).leftAt scl
        sda pollCnt k).enterSend (pay 0))) rfl rfl ((Nat.zero_add _).trans hmore.symm) rfl
  | writeReg a r d =>
    refine ⟨.inl rfl, fun _ _ _ _ => ⟨_, rfl, rfl, rfl, ?_⟩⟩
    refine ⟨.inl rfl, rfl, fun _ _ _ _ => ⟨_, rfl, rfl, rfl, ?_⟩⟩
    refine ⟨.inr ⟨rfl, rfl⟩, rfl, fun _ _ _ _ => ⟨_, rfl, rfl, rfl, ?_⟩⟩
    exact ⟨.inr ⟨rfl, rfl⟩, rfl, fun _ _ _ _ => ⟨_, rfl, rfl, rfl, rfl⟩⟩
  | readByte a r d =>
    refine ⟨.inl rfl, fun _ _ _ _ => ⟨_, rfl, rfl, rfl, ?_⟩⟩
    exact ⟨.inl rfl, rfl, fun _ _ _ _ => ⟨_, rfl, rfl, rfl, rfl, rfl, rfl⟩⟩
  | readReg a r d =>
    refine ⟨.inl rfl, fun _ _ _ _ => ⟨_, rfl, rfl, rfl, ?_⟩⟩
    refine ⟨.inl rfl, rfl, fun _ _ _ _ => ⟨_, rfl, rfl, rfl, ?_⟩⟩
    refine ⟨.inr ⟨rfl, rfl⟩, rfl, fun _ _ _ _ => ⟨_, rfl, rfl, rfl, ?_⟩⟩
    refine ⟨.inr rfl, fun _ _ _ _ => ⟨_, rfl, rfl, rfl, ?_⟩⟩
    exact ⟨.inl rfl, rfl, fun _ _ _ _ => ⟨_, rfl, rfl, rfl, rfl, rfl, rfl⟩⟩

/-- The registers when a command's primitives have run to this result, and its Stop begins (rules R140, R149, R173). -/
structure Block.AtStop (i : Instr) (r : CommandRun) (b c : Block) : Prop where
  phase : c.phase = .stop
  k : c.k = 0
  hbCnt : c.hbCnt = 0
  command : c.command = some i
  ill : c.ill = b.ill
  err : c.err = !r.ok
  rxdata : c.rxdata = r.rx.getD b.rxdata

/-- A transition leaves latch, `ILL` and `HB_CNT` alone. -/
theorem after_keeps {i : Instr} {pay : Byte → Byte} {b c : Block} (h : (planOf i).after pay b = some c) :
    c.command = b.command ∧ c.ill = b.ill ∧ c.hbCnt = b.hbCnt := by
  obtain ⟨-, -, op, a, rl, dat, ill, -, -, hbCnt, -⟩ := after_frame h
  exact ⟨by simp only [Block.command, op, a, rl, dat], ill, hbCnt⟩

/-- The primitives ahead run as the pseudocode runs them, up to the Stop. -/
theorem leads_body {i : Instr} {s : State} {body : List Prim} {b : Block} (h : Ahead i s.pay body b)
    (hc : b.command = some i) (hk : b.k = 0) (hb : b.hbCnt = 0) (he : b.err = false) (p : Nat) :
    ∃ c, Leads s p b (bodyRun (pollBound s.du) s.env.samples body p).trace
        (bodyRun (pollBound s.du) s.env.samples body p).nextSample c ∧
      Block.AtStop i (bodyRun (pollBound s.du) s.env.samples body p) b c := by
  induction body generalizing b p with
  | nil => exact ⟨b, fun n _ => Runs.refl _, h, hk, hb, hc, rfl, he, rfl⟩
  | cons prim rest ih =>
    cases prim with
    | start =>
      obtain ⟨hp, goesOn⟩ := h
      obtain ⟨c, after, err, rxdata, ahead⟩ := goesOn true false b.pollCnt 7
      obtain ⟨command, ill, hbCnt⟩ := after_keeps after
      obtain ⟨d, run, stop⟩ := ih ahead (command.trans hc) rfl (hbCnt.trans hb) (err.trans he) p
      refine ⟨d, (leads_start hp hc hk hb after p).trans run, { stop with ill := stop.ill.trans ill, rxdata := ?_ }⟩
      exact stop.rxdata.trans (congrArg _ rxdata)
    | receive =>
      obtain ⟨hp, hrec, rfl⟩ := h
      have trace : (bodyRun (pollBound s.du) s.env.samples [.receive] p).trace = receiveTrace s.env.samples p :=
        List.append_nil _
      have received := leads_receive (s := s) hp hrec hc hk hb p
      rw [← trace] at received
      exact ⟨_, received, rfl, rfl, hb, hc, rfl, he, rfl⟩
    | send v =>
      obtain ⟨hs, rfl, goesOn⟩ := h
      cases acked : (sendByte (pollBound s.du) s.env.samples p b.shreg).acked with
      | true =>
        obtain ⟨x, send⟩ := leads_send_acked hc hs hk hb acked
        obtain ⟨c, after, err, rxdata, ahead⟩ := goesOn true true x 63
        obtain ⟨command, ill, hbCnt⟩ := after_keeps after
        obtain ⟨d, run, stop⟩ := ih ahead (command.trans hc) rfl (hbCnt.trans hb) (err.trans he) _
        rw [bodyRun_send_acked acked]
        refine ⟨d, (send c after).trans run, { stop with ill := stop.ill.trans ill, rxdata := ?_ }⟩
        exact stop.rxdata.trans (congrArg _ rxdata)
      | false =>
        obtain ⟨x, send⟩ := leads_send_refused hc hs hk hb acked
        rw [bodyRun_send_refused acked]
        exact ⟨_, send, rfl, rfl, hb, hc, rfl, rfl, rfl⟩

/-- Settles O53: acceptance puts the command's primitives ahead, they run up to the Stop, and the Stop ends in the response. -/
theorem commandRunsToResponse : Obligations.CommandRunsToResponse := by
  intro i s r n hp hb hr hn hold
  obtain ⟨c, run, stop⟩ := leads_body (s := s) (accept_ahead i s.pay s.block) (Block.accept_command i s.block) rfl hb rfl 0
  have whole := run.trans (leads_stop (s := s) stop.phase stop.command stop.k stop.hbCnt _)
  obtain ⟨op, a, rl, dat⟩ := Block.command_fields stop.command
  subst hr hn
  obtain ⟨final, trace⟩ := whole 0 ((Nat.zero_add _).symm ▸ hold)
  rw [Nat.zero_add] at final
  have accepted : exec i s = .next (s.later 0 0 (s.block.accept i)) := by
    rw [exec_idle i hp, State.later, Env.advance_zero]
  exact ⟨_, _, accepted, final, trace, rfl, rfl, rfl, rfl, stop.hbCnt, rfl, rfl, op, a, rl, dat, rfl, stop.ill, stop.err,
    stop.rxdata⟩

end Sys2Proof.Machine
end

section
/-! PROOFS. The statements of 60_exceptions.md: the reset pin (rules R176, R190, R192) and the refusal of an illegal word
(rule R177). -/

namespace Sys2Proof.Machine

/-- Under reset no event is emitted, also not that of the command it cuts off (rules R176, R190). -/
theorem event_reset {s : State} (h : s.hostNow.rstN = false) : s.event = none := by
  simp [State.event, action_reset h]

/-- Settles O10: reset comes before all else a cycle could be spent on, and it replaces the registers only. -/
theorem resetPin : Obligations.ResetPin := by
  intro s hrst
  exact ⟨step_reset (action_reset hrst), event_reset hrst, State.registers_reset hrst⟩

/-- Settles O14: the cycle is spent on `Block.refuse`, which stays in `IDLE`, and without reset the next cycle's ports show
the three flags it wrote. -/
theorem illegalWordRefused : Obligations.IllegalWordRefused := by
  intro s why hrst hp hvalid hillegal
  refine ⟨event_idle hp, _, step_refuse (action_refuse hrst hp hvalid hillegal), rfl, fun hnext => ?_⟩
  obtain ⟨ports, -⟩ := portsShowRegisters { s.beginCycle with block := s.block.refuse }
  obtain ⟨ready, -, valid, err, ill, -⟩ := ports hnext
  exact ⟨valid, ill, err, ready.mpr hp⟩

end Sys2Proof.Machine
end
